-- ==== Sys2Proof/Word.lean ====
section
/-! DEFINITION. The word types of the CHIP-8 core (spec/00_scope.md R7, R9): the widths of registers, fields and
addresses. All values are unsigned. -/

namespace Sys2Proof

/-- A 4-bit field: a register index X or Y, or N (30_encoding.md R81). -/
abbrev Nibble := BitVec 4

/-- An 8-bit value: a general register, a memory byte, a timer, the immediate NN. -/
abbrev Byte := BitVec 8

/-- A 12-bit value: the immediate NNN and the index register `I`. -/
abbrev Addr := BitVec 12

/-- A 16-bit value: an instruction word, the program counter, a stack slot. -/
abbrev Word := BitVec 16

end Sys2Proof
end

