-- ==== Sys2Proof/Machine/Flags.lean ====
section
/-! DEFINITION. The results and flags of the arithmetic (42_alu.md R146 to R151). Results are computed on exact integers
and truncated to 8 bits; a flag is a byte, 0 or 1. -/

namespace Sys2Proof.Machine

/-- A truth value as a flag byte. -/
def flagByte (b : Bool) : Byte := if b then 1 else 0

/-- `trunc_8(a + b)` (R131, R146) -/
def sum8 (a b : Byte) : Byte := BitVec.ofNat 8 (a.toNat + b.toNat)

/-- "the carry flag of 8XY4 is 1 exactly when the exact sum exceeds 255" (R151) -/
def carryOut (a b : Byte) : Byte := flagByte (a.toNat + b.toNat > 255)

/-- `trunc_8(a − b + 256)` (R147, R149) -/
def diff8 (a b : Byte) : Byte := BitVec.ofNat 8 (a.toNat + 256 - b.toNat)

/-- "1 exactly when no borrow occurs (minuend ≥ subtrahend)" (R151) -/
def noBorrow (a b : Byte) : Byte := flagByte (a.toNat ≥ b.toNat)

/-- `a >> 1`, logical (R148) -/
def shiftRight1 (a : Byte) : Byte := a >>> 1

/-- The bit 8XY6 shifts out: bit 0 (R148) -/
def shiftedOutLow (a : Byte) : Byte := a &&& 1

/-- `trunc_8(a << 1)` (R150) -/
def shiftLeft1 (a : Byte) : Byte := a <<< 1

/-- The bit 8XYE shifts out: bit 7 (R150) -/
def shiftedOutHigh (a : Byte) : Byte := (a >>> 7) &&& 1

end Sys2Proof.Machine
end

