-- ==== Sys2Proof/Syntax.lean ====
section
/-! DEFINITION. The 22 instructions of spec/opcode_table.json (30_encoding.md R90), one constructor a row. Operands
are the fields of 30_encoding.md R81 at their exact widths. A nibble the hardware ignores (30_encoding.md R91 to R93)
is an operand too, so that a word and its instruction determine each other (DESIGN CHOICE, safe, log 9). -/

namespace Sys2Proof

inductive Instr where
  /-- 00E0 `CLS`; `x` is ignored (R91). -/
  | cls (x : Nibble)
  /-- 00EE `RET`; `x` is ignored (R91). -/
  | ret (x : Nibble)
  /-- 1NNN `JP nnn` -/
  | jp (nnn : Addr)
  /-- 2NNN `CALL nnn` -/
  | call (nnn : Addr)
  /-- 3XNN `SE Vx, nn` -/
  | seImm (x : Nibble) (nn : Byte)
  /-- 4XNN `SNE Vx, nn` -/
  | sneImm (x : Nibble) (nn : Byte)
  /-- 5XYN `SE Vx, Vy`; `n` is ignored (R92). -/
  | seReg (x y n : Nibble)
  /-- 6XNN `LD Vx, nn` -/
  | ldImm (x : Nibble) (nn : Byte)
  /-- 7XNN `ADD Vx, nn` -/
  | addImm (x : Nibble) (nn : Byte)
  /-- 8XY0 `LD Vx, Vy` -/
  | ldReg (x y : Nibble)
  /-- 8XY1 `OR Vx, Vy` -/
  | orReg (x y : Nibble)
  /-- 8XY2 `AND Vx, Vy` -/
  | andReg (x y : Nibble)
  /-- 8XY3 `XOR Vx, Vy` -/
  | xorReg (x y : Nibble)
  /-- 8XY4 `ADD Vx, Vy` -/
  | addReg (x y : Nibble)
  /-- 8XY5 `SUB Vx, Vy` -/
  | sub (x y : Nibble)
  /-- 8XY6 `SHR Vx`; `y` is ignored (R93). -/
  | shr (x y : Nibble)
  /-- 8XY7 `SUBN Vx, Vy` -/
  | subn (x y : Nibble)
  /-- 8XYE `SHL Vx`; `y` is ignored (R93). -/
  | shl (x y : Nibble)
  /-- ANNN `LD I, nnn` -/
  | ldI (nnn : Addr)
  /-- BNNN `JP V0, nnn` -/
  | jpV0 (nnn : Addr)
  /-- CXNN `RND Vx, nn` -/
  | rnd (x : Nibble) (nn : Byte)
  /-- DXYN `DRW Vx, Vy, n` -/
  | drw (x y n : Nibble)
  deriving DecidableEq, Repr

end Sys2Proof
end

