-- ==== Sys2Proof/WellFormed.lean ====
section
/-! DEFINITION. Well-formed instruction terms. An operand out of range cannot be written down (its type is its field's
width), so the one thing left to check is 30_encoding.md R97: "An assembler emits N = 0 for `SE Vx, Vy`, Y = 0 for
`SHR Vx` and `SHL Vx`, and X = 0 for `CLS` and `RET`." The hardware executes the other forms as well (R91 to R93), so
no statement about the machine assumes this check. -/

namespace Sys2Proof

/-- The term is the one form of its instruction that an assembler emits (30_encoding.md R97). -/
def Instr.wellFormed : Instr → Bool
  | .cls x => x == 0
  | .ret x => x == 0
  | .jp _ => true
  | .call _ => true
  | .seImm _ _ => true
  | .sneImm _ _ => true
  | .seReg _ _ n => n == 0
  | .ldImm _ _ => true
  | .addImm _ _ => true
  | .ldReg _ _ => true
  | .orReg _ _ => true
  | .andReg _ _ => true
  | .xorReg _ _ => true
  | .addReg _ _ => true
  | .sub _ _ => true
  | .shr _ y => y == 0
  | .subn _ _ => true
  | .shl _ y => y == 0
  | .ldI _ => true
  | .jpV0 _ => true
  | .rnd _ _ => true
  | .drw _ _ _ => true

/-- The form an assembler emits for the same instruction: the ignored nibble set to 0 (30_encoding.md R91 to R93, R97). -/
def Instr.canonical : Instr → Instr
  | .cls _ => .cls 0
  | .ret _ => .ret 0
  | .jp nnn => .jp nnn
  | .call nnn => .call nnn
  | .seImm x nn => .seImm x nn
  | .sneImm x nn => .sneImm x nn
  | .seReg x y _ => .seReg x y 0
  | .ldImm x nn => .ldImm x nn
  | .addImm x nn => .addImm x nn
  | .ldReg x y => .ldReg x y
  | .orReg x y => .orReg x y
  | .andReg x y => .andReg x y
  | .xorReg x y => .xorReg x y
  | .addReg x y => .addReg x y
  | .sub x y => .sub x y
  | .shr x _ => .shr x 0
  | .subn x y => .subn x y
  | .shl x _ => .shl x 0
  | .ldI nnn => .ldI nnn
  | .jpV0 nnn => .jpV0 nnn
  | .rnd x nn => .rnd x nn
  | .drw x y n => .drw x y n

end Sys2Proof
end

