-- ==== Sys2Proof/Decode.lean ====
section
/-! DEFINITION. Decode (30_encoding.md R82, R86, R87, R90, R95), total on any bytes and rejecting by name, and after
it the encoder. -/

namespace Sys2Proof

/-- The decoded view of a word, as R82 returns it: (w, f, x, y, n, nn, nnn). -/
structure Fields where
  w : Word
  f : Nibble
  x : Nibble
  y : Nibble
  n : Nibble
  nn : Byte
  nnn : Addr
  deriving DecidableEq, Repr

/-- Why bytes are no instruction. -/
inductive DecodeError where
  /-- fewer than two bytes were given (R80: an instruction is 2 bytes) -/
  | truncated
  /-- the family nibble has no handler: 0x9, 0xE, 0xF (R95) -/
  | noHandler (w : Word)
  /-- the secondary key of family 0x0 (NN) or 0x8 (N) is unmatched (R95) -/
  | noSubHandler (w : Word)
  deriving DecidableEq, Repr

/-- R82: "splits a raw 16-bit instruction word into its addressing fields". -/
def splitWord (w : Word) : Fields where
  w := w
  f := w.extractLsb' 12 4
  x := w.extractLsb' 8 4
  y := w.extractLsb' 4 4
  n := w.extractLsb' 0 4
  nn := w.extractLsb' 0 8
  nnn := w.extractLsb' 0 12

/-- R87: the handler the dispatcher selects; the primary key is `f`, families 0x0 and 0x8 have a secondary key. -/
def selectHandler (d : Fields) : Except DecodeError Instr :=
  match d.f with
  | 0x0#4 =>
    match d.nn with
    | 0xE0#8 => .ok (.cls d.x)
    | 0xEE#8 => .ok (.ret d.x)
    | _ => .error (.noSubHandler d.w)
  | 0x1#4 => .ok (.jp d.nnn)
  | 0x2#4 => .ok (.call d.nnn)
  | 0x3#4 => .ok (.seImm d.x d.nn)
  | 0x4#4 => .ok (.sneImm d.x d.nn)
  | 0x5#4 => .ok (.seReg d.x d.y d.n)
  | 0x6#4 => .ok (.ldImm d.x d.nn)
  | 0x7#4 => .ok (.addImm d.x d.nn)
  | 0x8#4 =>
    match d.n with
    | 0x0#4 => .ok (.ldReg d.x d.y)
    | 0x1#4 => .ok (.orReg d.x d.y)
    | 0x2#4 => .ok (.andReg d.x d.y)
    | 0x3#4 => .ok (.xorReg d.x d.y)
    | 0x4#4 => .ok (.addReg d.x d.y)
    | 0x5#4 => .ok (.sub d.x d.y)
    | 0x6#4 => .ok (.shr d.x d.y)
    | 0x7#4 => .ok (.subn d.x d.y)
    | 0xE#4 => .ok (.shl d.x d.y)
    | _ => .error (.noSubHandler d.w)
  | 0xA#4 => .ok (.ldI d.nnn)
  | 0xB#4 => .ok (.jpV0 d.nnn)
  | 0xC#4 => .ok (.rnd d.x d.nn)
  | 0xD#4 => .ok (.drw d.x d.y d.n)
  | _ => .error (.noHandler d.w)

/-- The instruction a word is, or the reason it is unsupported. -/
def decode (w : Word) : Except DecodeError Instr := selectHandler (splitWord w)

/-- The word of two bytes, the high byte first (20_memory.md R64, R65). -/
def wordOfBytes (hi lo : Byte) : Word := hi ++ lo

/-- Decode the first instruction of a byte string and give the rest of it: "a decoder always takes 2 bytes" (R80). -/
def decodeBytes : List Byte → Except DecodeError (Instr × List Byte)
  | hi :: lo :: rest =>
    match decode (wordOfBytes hi lo) with
    | .ok i => .ok (i, rest)
    | .error e => .error e
  | _ => .error .truncated

/-- The two bytes of a word as memory stores them (R80, 20_memory.md R64). -/
def highByte (w : Word) : Byte := w.extractLsb' 8 8
def lowByte (w : Word) : Byte := w.extractLsb' 0 8

/-- The word the opcode table numbers `w` with `nbits` bits, the bits above `nbits` zero. -/
def tableWord (nbits w : Nat) : Word := BitVec.ofNat 16 (w % 2 ^ nbits)

/-- The instruction the decoder reads from a row's word laid out in memory order. -/
def decodeTableWord (nbits w : Nat) : Option Instr :=
  match decodeBytes [highByte (tableWord nbits w), lowByte (tableWord nbits w)] with
  | .ok (i, _) => some i
  | .error _ => none

/-- The word of an instruction (R81, R90). -/
def encode : Instr → Word
  | .cls x => 0x0#4 ++ x ++ 0xE0#8
  | .ret x => 0x0#4 ++ x ++ 0xEE#8
  | .jp nnn => 0x1#4 ++ nnn
  | .call nnn => 0x2#4 ++ nnn
  | .seImm x nn => 0x3#4 ++ x ++ nn
  | .sneImm x nn => 0x4#4 ++ x ++ nn
  | .seReg x y n => 0x5#4 ++ x ++ y ++ n
  | .ldImm x nn => 0x6#4 ++ x ++ nn
  | .addImm x nn => 0x7#4 ++ x ++ nn
  | .ldReg x y => 0x8#4 ++ x ++ y ++ 0x0#4
  | .orReg x y => 0x8#4 ++ x ++ y ++ 0x1#4
  | .andReg x y => 0x8#4 ++ x ++ y ++ 0x2#4
  | .xorReg x y => 0x8#4 ++ x ++ y ++ 0x3#4
  | .addReg x y => 0x8#4 ++ x ++ y ++ 0x4#4
  | .sub x y => 0x8#4 ++ x ++ y ++ 0x5#4
  | .shr x y => 0x8#4 ++ x ++ y ++ 0x6#4
  | .subn x y => 0x8#4 ++ x ++ y ++ 0x7#4
  | .shl x y => 0x8#4 ++ x ++ y ++ 0xE#4
  | .ldI nnn => 0xA#4 ++ nnn
  | .jpV0 nnn => 0xB#4 ++ nnn
  | .rnd x nn => 0xC#4 ++ x ++ nn
  | .drw x y n => 0xD#4 ++ x ++ y ++ n

/-- One row of the opcode map of R90: a word `w` is the row's instruction when `w &&& mask = pattern`. -/
structure OpcodeRow where
  pattern : Word
  mask : Word
  deriving DecidableEq, Repr

def OpcodeRow.matchesWord (r : OpcodeRow) (w : Word) : Bool := w &&& r.mask == r.pattern

/-- The row of R90 an instruction belongs to. -/
def opcodeRow : Instr → OpcodeRow
  | .cls _ => ⟨0x00E0, 0xF0FF⟩
  | .ret _ => ⟨0x00EE, 0xF0FF⟩
  | .jp _ => ⟨0x1000, 0xF000⟩
  | .call _ => ⟨0x2000, 0xF000⟩
  | .seImm _ _ => ⟨0x3000, 0xF000⟩
  | .sneImm _ _ => ⟨0x4000, 0xF000⟩
  | .seReg _ _ _ => ⟨0x5000, 0xF000⟩
  | .ldImm _ _ => ⟨0x6000, 0xF000⟩
  | .addImm _ _ => ⟨0x7000, 0xF000⟩
  | .ldReg _ _ => ⟨0x8000, 0xF00F⟩
  | .orReg _ _ => ⟨0x8001, 0xF00F⟩
  | .andReg _ _ => ⟨0x8002, 0xF00F⟩
  | .xorReg _ _ => ⟨0x8003, 0xF00F⟩
  | .addReg _ _ => ⟨0x8004, 0xF00F⟩
  | .sub _ _ => ⟨0x8005, 0xF00F⟩
  | .shr _ _ => ⟨0x8006, 0xF00F⟩
  | .subn _ _ => ⟨0x8007, 0xF00F⟩
  | .shl _ _ => ⟨0x800E, 0xF00F⟩
  | .ldI _ => ⟨0xA000, 0xF000⟩
  | .jpV0 _ => ⟨0xB000, 0xF000⟩
  | .rnd _ _ => ⟨0xC000, 0xF000⟩
  | .drw _ _ _ => ⟨0xD000, 0xF000⟩

/-- The whole opcode map of R90, in its order. -/
def opcodeMap : List OpcodeRow :=
  [⟨0x00E0, 0xF0FF⟩, ⟨0x00EE, 0xF0FF⟩, ⟨0x1000, 0xF000⟩, ⟨0x2000, 0xF000⟩, ⟨0x3000, 0xF000⟩, ⟨0x4000, 0xF000⟩,
   ⟨0x5000, 0xF000⟩, ⟨0x6000, 0xF000⟩, ⟨0x7000, 0xF000⟩, ⟨0x8000, 0xF00F⟩, ⟨0x8001, 0xF00F⟩, ⟨0x8002, 0xF00F⟩,
   ⟨0x8003, 0xF00F⟩, ⟨0x8004, 0xF00F⟩, ⟨0x8005, 0xF00F⟩, ⟨0x8006, 0xF00F⟩, ⟨0x8007, 0xF00F⟩, ⟨0x800E, 0xF00F⟩,
   ⟨0xA000, 0xF000⟩, ⟨0xB000, 0xF000⟩, ⟨0xC000, 0xF000⟩, ⟨0xD000, 0xF000⟩]

/-- A hexadecimal digit (R9). -/
def hexDigit (v : Nibble) : String :=
  ["0", "1", "2", "3", "4", "5", "6", "7", "8", "9", "A", "B", "C", "D", "E", "F"].getD v.toNat ""

/-- A decimal row count, 0 to 15 (R97). -/
def countText (v : Nibble) : String :=
  ["0", "1", "2", "3", "4", "5", "6", "7", "8", "9", "10", "11", "12", "13", "14", "15"].getD v.toNat ""

/-- `V0` to `VF` (R97). -/
def regText (x : Nibble) : String := "V" ++ hexDigit x

/-- An immediate byte in hexadecimal. -/
def byteText (nn : Byte) : String := "0x" ++ hexDigit (nn.extractLsb' 4 4) ++ hexDigit (nn.extractLsb' 0 4)

/-- A 12-bit address in hexadecimal. -/
def addrText (nnn : Addr) : String :=
  "0x" ++ hexDigit (nnn.extractLsb' 8 4) ++ hexDigit (nnn.extractLsb' 4 4) ++ hexDigit (nnn.extractLsb' 0 4)

/-- The assembler text of an instruction (R97, "for readability only; no rule depends on them"). A form with a nonzero
ignored nibble has the text of the form without it. -/
def asmText : Instr → String
  | .cls _ => "CLS"
  | .ret _ => "RET"
  | .jp nnn => "JP " ++ addrText nnn
  | .call nnn => "CALL " ++ addrText nnn
  | .seImm x nn => "SE " ++ regText x ++ ", " ++ byteText nn
  | .sneImm x nn => "SNE " ++ regText x ++ ", " ++ byteText nn
  | .seReg x y _ => "SE " ++ regText x ++ ", " ++ regText y
  | .ldImm x nn => "LD " ++ regText x ++ ", " ++ byteText nn
  | .addImm x nn => "ADD " ++ regText x ++ ", " ++ byteText nn
  | .ldReg x y => "LD " ++ regText x ++ ", " ++ regText y
  | .orReg x y => "OR " ++ regText x ++ ", " ++ regText y
  | .andReg x y => "AND " ++ regText x ++ ", " ++ regText y
  | .xorReg x y => "XOR " ++ regText x ++ ", " ++ regText y
  | .addReg x y => "ADD " ++ regText x ++ ", " ++ regText y
  | .sub x y => "SUB " ++ regText x ++ ", " ++ regText y
  | .shr x _ => "SHR " ++ regText x
  | .subn x y => "SUBN " ++ regText x ++ ", " ++ regText y
  | .shl x _ => "SHL " ++ regText x
  | .ldI nnn => "LD I, " ++ addrText nnn
  | .jpV0 nnn => "JP V0, " ++ addrText nnn
  | .rnd x nn => "RND " ++ regText x ++ ", " ++ byteText nn
  | .drw x y n => "DRW " ++ regText x ++ ", " ++ regText y ++ ", " ++ countText n

end Sys2Proof
end

