-- ==== Sys2Proof/Machine/Framebuffer.lean ====
section
/-! DEFINITION. The framebuffer as plain data (10_state.md R32): "a 64×32 grid of boolean pixel states", column first,
as the spec writes `FB[x][y]`. -/

namespace Sys2Proof.Machine

abbrev Column := Fin 64
abbrev Row := Fin 32
abbrev Framebuffer := Vector (Vector Bool 32) 64

/-- Every pixel false. -/
def Framebuffer.clear : Framebuffer := Vector.replicate 64 (Vector.replicate 32 false)

/-- `FB[x][y]` -/
def Framebuffer.pixel (fb : Framebuffer) (x : Column) (y : Row) : Bool := (fb.get x).get y

/-- `FB[x][y] <- b` -/
def Framebuffer.setPixel (fb : Framebuffer) (x : Column) (y : Row) (b : Bool) : Framebuffer :=
  fb.set x.val ((fb.get x).set y.val b y.isLt) x.isLt

end Sys2Proof.Machine
end

