-- ==== Sys2Proof/Config.lean ====
section
/-! DEFINITION. What the document leaves to something outside the core (spec/00_scope.md R8): the parameters of one
machine, and the free random source. The default values are in Machine/Parameters.lean. -/

namespace Sys2Proof

/-- `SUBN_FLAG_ORDER` (00_scope.md R8, 42_alu.md R149): which of 8XY7's two writes comes first. -/
inductive FlagOrder where
  /-- the flag, then the difference (the default) -/
  | before
  /-- the difference, then the flag from the new `V[x]` -/
  | after
  deriving DecidableEq, Repr

/-- The parameters of 00_scope.md R8 but the random draw. No transaction changes them (10_state.md R37). -/
structure Config where
  /-- `FONT`, the bytes reset writes at 0x000; `FONT_LEN` is its length. -/
  font : List Byte
  /-- `SUBN_FLAG_ORDER` -/
  subnFlagOrder : FlagOrder
  /-- `DRAW_REFERENCE_FAULT` (43_display.md R164) -/
  drawReferenceFault : Bool
  deriving DecidableEq, Repr

/-- The random source (10_state.md R34, 93_implementation_defined.md Part 1 row 3: any value): the n-th byte it
hands to a tick for which no draw was supplied. It has no body, so nothing can be proved of its value.
DESIGN CHOICE, safe (log 3). -/
opaque Config.freeDraw : Nat → Byte

end Sys2Proof
end

