-- ==== Sys2Proof/Machine/Parameters.lean ====
section
/-! DEFINITION. The fixed parameters of the hardware (00_scope.md R7) and the default configuration (00_scope.md R8,
70_reset_and_hazards.md R203). -/

namespace Sys2Proof

/-- `MEM_SIZE`: addresses 0x000 to 0xFFF (20_memory.md R60). -/
def memSize : Nat := 4096
/-- `RESERVED_TOP`: the last address of the region "reserved for system use" (20_memory.md R61). -/
def reservedTop : Nat := 0x1FF
/-- `PROG_BASE`: the program load address and the reset value of `pc`. -/
def progBase : Nat := 0x200
/-- `ROM_MAX`: 4096 − 0x200 = 3584 bytes. -/
def romMax : Nat := memSize - progBase
/-- `FONT_BASE` -/
def fontBase : Nat := 0x000

/-- The glyphs of the digits 0 to 7 of R203. -/
def fontLow : List Byte :=
  [0xF0, 0x90, 0x90, 0x90, 0xF0, 0x20, 0x60, 0x20, 0x20, 0x70, 0xF0, 0x10, 0xF0, 0x80, 0xF0, 0xF0, 0x10, 0xF0, 0x10, 0xF0,
   0x90, 0x90, 0xF0, 0x10, 0x10, 0xF0, 0x80, 0xF0, 0x10, 0xF0, 0xF0, 0x80, 0xF0, 0x90, 0xF0, 0xF0, 0x10, 0x20, 0x40, 0x40]

/-- The glyphs of the digits 8 to F of R203. -/
def fontHigh : List Byte :=
  [0xF0, 0x90, 0xF0, 0x90, 0xF0, 0xF0, 0x90, 0xF0, 0x10, 0xF0, 0xF0, 0x90, 0xF0, 0x90, 0x90, 0xE0, 0x90, 0xE0, 0x90, 0xE0,
   0xF0, 0x80, 0x80, 0x80, 0xF0, 0xE0, 0x90, 0x90, 0x90, 0xE0, 0xF0, 0x80, 0xF0, 0x80, 0xF0, 0xF0, 0x80, 0xF0, 0x80, 0x80]

/-- The standard hexadecimal font, the default of `FONT` (R203, D15: "from general knowledge, not in source").
PRESUMED, unsafe for a claim that draws a glyph (log 2). -/
def standardFont : List Byte := fontLow ++ fontHigh

/-- The defaults of R8. -/
def Config.standard : Config where
  font := standardFont
  subnFlagOrder := .before
  drawReferenceFault := false

/-- R8: 0 ≤ `FONT_LEN` ≤ 0x200. -/
def Config.wf (c : Config) : Bool := c.font.length ≤ 0x200

/-- What reset leaves at an address (R200, R202): the font from 0x000, zero above it. -/
def Config.resetByte (c : Config) (a : Nat) : Byte := c.font.getD (a - fontBase) 0

end Sys2Proof
end

