-- ==== Sys2Proof/Machine/State.lean ====
section
/-! DEFINITION. The state of the block (10_state.md R20), its error kinds, the reasons a step can stop, and the state
after reset (70_reset_and_hazards.md R200). -/

namespace Sys2Proof.Machine

/-- The error kinds of 60_exceptions.md R170. Their codes are `ErrorKind.code` in Machine/Ops.lean. -/
inductive ErrorKind where
  | unsupportedInstruction
  | stackOverflow
  | stackUnderflow
  | outOfBoundsAccess
  | romTooLarge
  | notImplemented
  deriving DecidableEq, Repr

/-- An error that a rule raises, with the value it carries (60_exceptions.md R171). -/
structure Trap where
  kind : ErrorKind
  info : Word
  deriving DecidableEq, Repr

/-- The `FAULT` register (10_state.md R33): kind 0 is no error. -/
structure FaultStatus where
  kind : BitVec 3
  info : Word
  deriving DecidableEq, Repr

/-- Why a step would stop with a fault. There is no such reason: every error of this hardware is latched in `FAULT` and
the tick gives a next state (60_exceptions.md R172 to R174; log 5). So no definition raises a fault, which is safe. -/
inductive Fault where
  deriving DecidableEq, Repr

/-- Why a step is refused. -/
inductive Refusal where
  /-- An instruction without a meaning. No arm of `exec` raises it, since every instruction has its meaning. Safe. -/
  | notModelled (mnemonic : String)
  /-- A tick before the first reset or load (10_state.md R21, 70_reset_and_hazards.md R209): raised by `transact` of
  Machine/Ports.lean alone, never by `step`. Safe: the spec admits no such tick. -/
  | tickBeforeReset
  deriving DecidableEq, Repr

/-- The architectural state, under the spec's own names, and three fields of the model's own. -/
structure State where
  /-- 4096 bytes of memory (R20, 20_memory.md R60) -/
  mem : Memory
  /-- the general registers V0 to VF (R22) -/
  V : Vector Byte 16
  /-- the index register (R25) -/
  I : Addr
  /-- the program counter (R26) -/
  pc : Word
  /-- the stack pointer, the number of live entries (R27): 5 bits, 0 to 16 (log 7) -/
  SP : Fin 17
  /-- the return stack (R27) -/
  stack : Vector Word 16
  /-- the delay timer (R30) -/
  DT : Byte
  /-- the sound timer (R31) -/
  ST : Byte
  /-- the framebuffer (R32) -/
  FB : Framebuffer
  /-- the latched error (R33) -/
  FAULT : FaultStatus
  /-- the model's own: the configuration, which no transaction changes (R37; log 1) -/
  cfg : Config
  /-- the model's own: the draws supplied for the coming ticks, oldest first (R34; log 3) -/
  draws : List Byte
  /-- the model's own: the number of the next free draw (R34; log 3) -/
  drawCount : Nat
  deriving DecidableEq, Repr

/-- What R200 leaves, for a machine of configuration `c`. The draw inputs are not the block's; right after power they are
empty (DESIGN CHOICE, log 3). -/
def State.resetOf (c : Config) : State where
  mem := []
  V := Vector.replicate 16 0
  I := 0
  pc := 0x200
  SP := 0
  stack := Vector.replicate 16 0
  DT := 0
  ST := 0
  FB := Framebuffer.clear
  FAULT := ⟨0, 0⟩
  cfg := c
  draws := []
  drawCount := 0

/-- The machine right after reset (R200), with the default configuration of 00_scope.md R8. -/
def State.reset : State := State.resetOf Config.standard

end Sys2Proof.Machine
end

