-- ==== Sys2Proof/Machine/Ops.lean ====
section
/-! DEFINITION. The named operations over registers, memory, the stack, the framebuffer and the timers, and taking an
error (00_scope.md R10). A rule runs on a working copy, here the state after `State.advance`; what it raises is a
`Trap`; `commit` ends it (60_exceptions.md R172). -/

namespace Sys2Proof.Machine

/-- What a step answers. -/
abbrev StepOutcome := Host.Outcome State Fault Refusal

/-! ### Registers -/

/-- `V[x]`. An index is 4 bits wide, so the check of 10_state.md R24 cannot fail. -/
def State.readV (s : State) (x : Nibble) : Byte := s.V.get x.toFin

/-- `V[x] <- b` -/
def State.setV (s : State) (x : Nibble) (b : Byte) : State := { s with V := s.V.set x.toNat b x.isLt }

/-- VF, the flag register (10_state.md R23). -/
def regF : Nibble := 0xF

/-- `V[0xF] <- b`, the implicit write of a flag. -/
def State.setVF (s : State) (b : Byte) : State := s.setV regF b

/-- `I <- a` -/
def State.setI (s : State) (a : Addr) : State := { s with I := a }

/-- `pc <- p` -/
def State.setPc (s : State) (p : Word) : State := { s with pc := p }

/-- The advance of the fetch (30_encoding.md R85): `pc <- trunc_16(pc + 2)`. -/
def State.advance (s : State) : State := s.setPc (s.pc + 2)

/-- A skip (40_control_flow.md R110): `pc <- trunc_16(pc + 2)` when its condition holds. -/
def State.skipIf (s : State) (c : Bool) : State := if c then s.setPc (s.pc + 2) else s

/-! ### Memory -/

/-- The byte at an address, without a check. -/
def State.byteAt (s : State) (a : Nat) : Byte := s.mem.read s.cfg a

/-- `MemRead(addr, 1)` of 20_memory.md R62: `addr` is an exact integer, and the info is truncated to 16 bits. -/
def State.memRead (s : State) (addr : Nat) : Except Trap Byte :=
  if addr ≥ memSize then .error ⟨.outOfBoundsAccess, BitVec.ofNat 16 addr⟩ else .ok (s.byteAt addr)

/-- `MemWrite(addr, 1, b)` of 20_memory.md R63; no instruction calls it. -/
def State.memWrite (s : State) (addr : Nat) (b : Byte) : Except Trap State :=
  if addr ≥ memSize then .error ⟨.outOfBoundsAccess, BitVec.ofNat 16 addr⟩
  else .ok { s with mem := s.mem.write s.cfg addr b }

/-- Bytes at `addr`, `addr` + 1, …, `n` of them; the error of the smallest failing address. -/
def State.memReadMany (s : State) : Nat → Nat → Except Trap (List Byte)
  | _, 0 => .ok []
  | addr, n + 1 =>
    match s.memRead addr with
    | .error e => .error e
    | .ok b =>
      match s.memReadMany (addr + 1) n with
      | .error e => .error e
      | .ok bs => .ok (b :: bs)

/-- Writes of successive bytes from `addr` on. -/
def State.memWriteMany : State → Nat → List Byte → Except Trap State
  | s, _, [] => .ok s
  | s, addr, b :: bs =>
    match s.memWrite addr b with
    | .error e => .error e
    | .ok t => t.memWriteMany (addr + 1) bs

/-- `Fetch()` of 20_memory.md R64: the word at `pc`, the high byte first. -/
def State.fetchWord (s : State) : Except Trap Word :=
  match s.memRead s.pc.toNat with
  | .error e => .error e
  | .ok hi =>
    match s.memRead (s.pc.toNat + 1) with
    | .error e => .error e
    | .ok lo => .ok (wordOfBytes hi lo)

/-! ### The return stack -/

/-- `Push(v)` of 10_state.md R28; `A` is the address of the CALL. -/
def State.push (s : State) (A v : Word) : Except Trap State :=
  if h : s.SP.val < 16 then .ok { s with SP := ⟨s.SP.val + 1, by omega⟩, stack := s.stack.set s.SP.val v h }
  else .error ⟨.stackOverflow, A⟩

/-- `Pop()` of 10_state.md R29: the popped value and the state after it; the slot keeps its value. -/
def State.pop (s : State) (A : Word) : Except Trap (Word × State) :=
  if s.SP.val = 0 then .error ⟨.stackUnderflow, A⟩
  else .ok (s.stack.get ⟨s.SP.val - 1, by omega⟩, { s with SP := ⟨s.SP.val - 1, by omega⟩ })

/-! ### The framebuffer -/

/-- `FB <- fb` -/
def State.setFB (s : State) (fb : Framebuffer) : State := { s with FB := fb }

/-- `FB[x][y]` -/
def State.pixel (s : State) (x : Column) (y : Row) : Bool := s.FB.pixel x y

/-- A framebuffer being drawn on and the collision bit so far (43_display.md R161). -/
structure Canvas where
  fb : Framebuffer
  collision : Bool
  deriving DecidableEq, Repr

/-- The visit of one set sprite bit (R161): note a collision, then flip the pixel. -/
def Canvas.plot (k : Canvas) (x : Column) (y : Row) : Canvas where
  fb := k.fb.setPixel x y (!k.fb.pixel x y)
  collision := k.collision || k.fb.pixel x y

/-- One sprite byte from column `x0` on (R162: bit 7 is leftmost; R163: the column wraps). -/
def Canvas.drawByte (k : Canvas) (x0 : Nat) (y : Row) (b : Byte) : Canvas :=
  (List.range 8).foldl (fun k c => if b.getLsbD (7 - c) then k.plot (Fin.ofNat 64 (x0 + c)) y else k) k

/-- The sprite's rows from row `y0` on (R161; R163: the row wraps). -/
def Canvas.drawSprite (k : Canvas) (x0 : Nat) : Nat → List Byte → Canvas
  | _, [] => k
  | y0, b :: bs => (k.drawByte x0 (Fin.ofNat 32 y0) b).drawSprite x0 (y0 + 1) bs

/-! ### Taking an error -/

/-- The code of an error kind (60_exceptions.md R170). -/
def ErrorKind.code : ErrorKind → BitVec 3
  | .unsupportedInstruction => 1
  | .stackOverflow => 2
  | .stackUnderflow => 3
  | .outOfBoundsAccess => 4
  | .romTooLarge => 5
  | .notImplemented => 6

/-- What `FAULT` holds for an error (60_exceptions.md R173). -/
def Trap.status (e : Trap) : FaultStatus := ⟨e.kind.code, e.info⟩

/-- TAKING AN ERROR (60_exceptions.md R172, R173): the state before the tick with `FAULT` latched. It saves nothing
else, changes no mode and transfers control nowhere (R178). There is no return from it but reset and load (R179):
`State.resetBlock` below. -/
def State.raise (s : State) (e : Trap) : State := { s with FAULT := e.status }

/-- The end of an instruction on the state `s` before the tick: its working copy is committed, or the error it raised is
taken on `s` (R172). -/
def commit (s : State) : Except Trap State → StepOutcome
  | .ok w => .next w
  | .error e => .next (s.raise e)

/-- The way back to execution (60_exceptions.md R174, R179; 70_reset_and_hazards.md R200): reset, with the same
configuration; the draw inputs are not the block's and stay (log 3). -/
def State.resetBlock (s : State) : State :=
  { State.resetOf s.cfg with draws := s.draws, drawCount := s.drawCount }

/-! ### Timers and the random draw -/

/-- One timer's decrement, "floor at zero" (30_encoding.md R88). -/
def countDown (t : Byte) : Byte := if t = 0 then 0 else t - 1

/-- Step (d) of the tick (30_encoding.md R88): both timers. -/
def State.tickTimers (s : State) : State := { s with DT := countDown s.DT, ST := countDown s.ST }

/-- The draw of the coming tick (10_state.md R34): the oldest supplied one, else a free one. -/
def State.nextDraw (s : State) : Byte :=
  match s.draws with
  | d :: _ => d
  | [] => Config.freeDraw s.drawCount

/-- The tick's draw is used up (10_state.md R34, 60_exceptions.md R174; log 4). -/
def State.consumeDraw (s : State) : State :=
  match s.draws with
  | _ :: ds => { s with draws := ds }
  | [] => { s with drawCount := s.drawCount + 1 }

/-! ### Placing a word where the next fetch reads it (log 8) -/

/-- The two bytes of `w` at `pc`, high byte first, with `FAULT` clear; a `pc` no fetch can use is first set to 0x200. -/
def State.placeWord (s : State) (w : Word) : State :=
  let p : Word := if s.pc.toNat ≤ 0xFFE then s.pc else 0x200
  { s with
    pc := p
    FAULT := ⟨0, 0⟩
    mem := (s.mem.write s.cfg p.toNat (highByte w)).write s.cfg (p.toNat + 1) (lowByte w) }

end Sys2Proof.Machine
end

