-- ==== Sys2Proof/Machine/Operands.lean ====
section
/-! DEFINITION. The operand forms (30_encoding.md R83): registers read in a snapshot, and immediates, all unsigned and
zero-extended. -/

namespace Sys2Proof.Machine

/-- The operand snapshot of 42_alu.md R140: `Vx0` and `Vy0`, read once before any write. -/
structure Snapshot where
  vx : Byte
  vy : Byte
  deriving DecidableEq, Repr

def State.snapshot (s : State) (x y : Nibble) : Snapshot := ⟨s.readV x, s.readV y⟩

/-- `zext_16(nnn)`, the target of 1NNN and 2NNN (R83). -/
def absoluteTarget (nnn : Addr) : Word := nnn.setWidth 16

/-- `trunc_16(zext_16(V[0]) + zext_16(nnn))`, the target of BNNN (40_control_flow.md R117), not reduced to 12 bits. -/
def State.indexedTarget (s : State) (nnn : Addr) : Word := (s.readV 0).setWidth 16 + nnn.setWidth 16

/-- The sprite bytes of DXYN (43_display.md R161): `n` bytes from `I` on, all read before any pixel changes. -/
def State.spriteRows (s : State) (n : Nibble) : Except Trap (List Byte) := s.memReadMany s.I.toNat n.toNat

end Sys2Proof.Machine
end

