-- ==== Sys2Proof/Machine/Alu.lean ====
section
/-! DEFINITION. The register-register family 0x8 (42_alu.md). Every result and flag comes from the snapshot (R140); the
writes stand in the rule's order, so with `x` = 0xF the later one is what VF holds (R141). -/

namespace Sys2Proof.Machine

/-- LD Vx, Vy (8XY0), R142. -/
def execLdReg (x y : Nibble) (s : State) : StepOutcome :=
  let o := s.snapshot x y
  commit s (.ok (s.advance.setV x o.vy))

/-- OR Vx, Vy (8XY1), R143. -/
def execOrReg (x y : Nibble) (s : State) : StepOutcome :=
  let o := s.snapshot x y
  commit s (.ok (s.advance.setV x (o.vx ||| o.vy)))

/-- AND Vx, Vy (8XY2), R144. -/
def execAndReg (x y : Nibble) (s : State) : StepOutcome :=
  let o := s.snapshot x y
  commit s (.ok (s.advance.setV x (o.vx &&& o.vy)))

/-- XOR Vx, Vy (8XY3), R145. -/
def execXorReg (x y : Nibble) (s : State) : StepOutcome :=
  let o := s.snapshot x y
  commit s (.ok (s.advance.setV x (o.vx ^^^ o.vy)))

/-- ADD Vx, Vy (8XY4), R146: the sum, then the carry. -/
def execAddReg (x y : Nibble) (s : State) : StepOutcome :=
  let o := s.snapshot x y
  commit s (.ok ((s.advance.setV x (sum8 o.vx o.vy)).setVF (carryOut o.vx o.vy)))

/-- SUB Vx, Vy (8XY5), R147: the flag, then the difference. -/
def execSub (x y : Nibble) (s : State) : StepOutcome :=
  let o := s.snapshot x y
  commit s (.ok ((s.advance.setVF (noBorrow o.vx o.vy)).setV x (diff8 o.vx o.vy)))

/-- SHR Vx (8XY6), R148: the bit shifted out, then the shifted value. The result does not depend on Y. -/
def execShr (x y : Nibble) (s : State) : StepOutcome :=
  let o := s.snapshot x y
  commit s (.ok ((s.advance.setVF (shiftedOutLow o.vx)).setV x (shiftRight1 o.vx)))

/-- SUBN Vx, Vy (8XY7), R149: the flag and the difference in the order of `SUBN_FLAG_ORDER`. -/
def execSubn (x y : Nibble) (s : State) : StepOutcome :=
  let o := s.snapshot x y
  let d := diff8 o.vy o.vx
  match s.cfg.subnFlagOrder with
  | .before => commit s (.ok ((s.advance.setVF (noBorrow o.vy o.vx)).setV x d))
  | .after => commit s (.ok ((s.advance.setV x d).setVF (noBorrow o.vy d)))

/-- SHL Vx (8XYE), R150: the bit shifted out, then the shifted value. The result does not depend on Y. -/
def execShl (x y : Nibble) (s : State) : StepOutcome :=
  let o := s.snapshot x y
  commit s (.ok ((s.advance.setVF (shiftedOutHigh o.vx)).setV x (shiftLeft1 o.vx)))

end Sys2Proof.Machine
end

