-- ==== Sys2Proof/Machine/Control.lean ====
section
/-! DEFINITION. Control transfer (40_control_flow.md). A meaning gets the state before the tick, `pc` = `A`; its working
copy is `s.advance`, where `pc` = `A` + 2. -/

namespace Sys2Proof.Machine

/-- RET (00EE), R111: `pc <- Pop()`. The X nibble is ignored. -/
def execRet (_x : Nibble) (s : State) : StepOutcome :=
  commit s ((s.advance.pop s.pc).map fun r => r.2.setPc r.1)

/-- JP (1NNN), R112: `pc <- zext_16(nnn)`. -/
def execJp (nnn : Addr) (s : State) : StepOutcome :=
  commit s (.ok (s.advance.setPc (absoluteTarget nnn)))

/-- CALL (2NNN), R113: `Push(pc)`, where `pc` = `A` + 2, then `pc <- zext_16(nnn)`. -/
def execCall (nnn : Addr) (s : State) : StepOutcome :=
  commit s ((s.advance.push s.pc s.advance.pc).map fun w => w.setPc (absoluteTarget nnn))

/-- SE Vx, nn (3XNN), R114. -/
def execSeImm (x : Nibble) (nn : Byte) (s : State) : StepOutcome :=
  commit s (.ok (s.advance.skipIf (s.readV x == nn)))

/-- SNE Vx, nn (4XNN), R115. -/
def execSneImm (x : Nibble) (nn : Byte) (s : State) : StepOutcome :=
  commit s (.ok (s.advance.skipIf (s.readV x != nn)))

/-- SE Vx, Vy (5XYN), R116. The N nibble is ignored. -/
def execSeReg (x y _n : Nibble) (s : State) : StepOutcome :=
  commit s (.ok (s.advance.skipIf (s.readV x == s.readV y)))

/-- JP V0, nnn (BNNN), R117. -/
def execJpV0 (nnn : Addr) (s : State) : StepOutcome :=
  commit s (.ok (s.advance.setPc (s.indexedTarget nnn)))

end Sys2Proof.Machine
end

