-- ==== Sys2Proof/Machine/Display.lean ====
section
/-! DEFINITION. The framebuffer instructions (43_display.md). -/

namespace Sys2Proof.Machine

/-- CLS (00E0), R160: every pixel false. The X nibble is ignored. -/
def execCls (_x : Nibble) (s : State) : StepOutcome :=
  commit s (.ok (s.advance.setFB Framebuffer.clear))

/-- DRW Vx, Vy, n (DXYN), R161 to R164: the reference fault if configured; then all reads; then the pixels; VF last. -/
def execDrw (x y n : Nibble) (s : State) : StepOutcome :=
  if s.cfg.drawReferenceFault then commit s (.error ⟨.notImplemented, encode (.drw x y n)⟩)
  else
    commit s ((s.spriteRows n).map fun rows =>
      let o := s.snapshot x y
      let k := Canvas.drawSprite ⟨s.FB, false⟩ o.vx.toNat o.vy.toNat rows
      (s.advance.setFB k.fb).setVF (flagByte k.collision))

end Sys2Proof.Machine
end

