-- ==== Sys2Proof/Machine/Immediate.lean ====
section
/-! DEFINITION. Immediate loads, immediate add, index load, random (41_load_immediate.md). -/

namespace Sys2Proof.Machine

/-- LD Vx, nn (6XNN), R130: `V[x] <- nn`. -/
def execLdImm (x : Nibble) (nn : Byte) (s : State) : StepOutcome :=
  commit s (.ok (s.advance.setV x nn))

/-- ADD Vx, nn (7XNN), R131: `V[x] <- trunc_8(V[x] + nn)`; no flag. -/
def execAddImm (x : Nibble) (nn : Byte) (s : State) : StepOutcome :=
  commit s (.ok (s.advance.setV x (sum8 (s.readV x) nn)))

/-- LD I, nnn (ANNN), R132: `I <- nnn`. -/
def execLdI (nnn : Addr) (s : State) : StepOutcome :=
  commit s (.ok (s.advance.setI nnn))

/-- RND Vx, nn (CXNN), R133: `V[x] <- rnd & nn`, `rnd` the tick's draw. -/
def execRnd (x : Nibble) (nn : Byte) (s : State) : StepOutcome :=
  commit s (.ok (s.advance.setV x (s.nextDraw &&& nn)))

end Sys2Proof.Machine
end

