-- ==== Sys2Proof/Machine/Tick.lean ====
section
/-! DEFINITION. The parts of a tick around the dispatched instruction (30_encoding.md R84 to R88). -/

namespace Sys2Proof.Machine

/-- A tick whose error kind is latched reports it and does nothing (60_exceptions.md R174). -/
def State.latched (s : State) : Bool := s.FAULT.kind != 0

/-- Step (d): "Step (d) runs only in a tick whose steps (a) to (c) did not raise" (30_encoding.md R88). -/
def State.endTick (t : State) : State := if t.latched then t else t.tickTimers

/-- After the instruction: step (d), and the tick's draw is used up. -/
def finishTick : StepOutcome → StepOutcome
  | .next t => .next t.endTick.consumeDraw
  | .fault f => .fault f
  | .refused r => .refused r

/-- Steps (b) to (d) for the fetched word: an unsupported word raises with the raw word (R87, R95). -/
def runWord (s : State) (w : Word) : StepOutcome :=
  match decode w with
  | .error _ => finishTick (commit s (.error ⟨.unsupportedInstruction, w⟩))
  | .ok i => finishTick (exec i s)

/-- One tick (R84), with the draw `s.nextDraw`. -/
def runTick (s : State) : StepOutcome :=
  if s.latched then .next s
  else
    match s.fetchWord with
    | .error e => finishTick (commit s (.error e))
    | .ok w => runWord s w

end Sys2Proof.Machine
end

