-- ==== Sys2Proof/Machine/Step.lean ====
section
/-! DEFINITION. The step of the machine is one tick (30_encoding.md R84, 70_reset_and_hazards.md R220). -/

namespace Sys2Proof.Machine

def step (s : State) : Host.Outcome State Fault Refusal := runTick s

/-- The row's word stored where the next step fetches (log 8). -/
def State.withFetchWord (s : State) (nbits w : Nat) : State := s.placeWord (tableWord nbits w)

end Sys2Proof.Machine
end

