-- ==== Sys2Proof/Machine/Ports.lean ====
section
/-! DEFINITION. The external interface (10_state.md R40 to R47, 70_reset_and_hazards.md R200 to R209): each port is one
transaction between ticks, and a `Block` remembers whether a reset or a load has been performed since power-on. -/

namespace Sys2Proof.Machine

/-- What a port hands back (R40). -/
inductive Reply where
  | ok
  /-- `error(kind, info)` of tick and load -/
  | error (kind : BitVec 3) (info : Word)
  /-- the pixel of `fb_read` -/
  | pixel (b : Bool)
  /-- the field of `dbg_read` -/
  | value (width : Nat) (v : BitVec width)
  /-- `FAULT.kind` and `FAULT.info` of `status` -/
  | status (kind : BitVec 3) (info : Word)
  /-- a `dbg_write` that is not allowed -/
  | notWritten
  deriving DecidableEq, Repr

/-- The result of a tick that left `t` (R41, 60_exceptions.md R173, R174). -/
def State.tickReply (t : State) : Reply := if t.latched then .error t.FAULT.kind t.FAULT.info else .ok

/-- `tick(rnd)` (R41): a step whose draw is `rnd`; the harness's own sequence stays. -/
def tick (rnd : Byte) (s : State) : Host.Outcome (State × Reply) Fault Refusal :=
  match step { s with draws := rnd :: s.draws } with
  | .next t => .next ({ t with draws := s.draws }, t.tickReply)
  | .fault f => .fault f
  | .refused r => .refused r

/-- `load(data)` (R43, 70_reset_and_hazards.md R206): the length check, then a reset, then the copy to 0x200. -/
def load (data : List Byte) (s : State) : State × Reply :=
  if data.length > romMax then (s, .error ErrorKind.romTooLarge.code (BitVec.ofNat 16 (min data.length 0xFFFF)))
  else
    match s.resetBlock.memWriteMany progBase data with
    | .ok t => (t, .ok)
    | .error e => (s, .error e.kind.code e.info)

/-- `fb_read(x, y)` (R44) -/
def fbRead (x : Column) (y : Row) (s : State) : Bool := s.pixel x y

/-- `status()` (R46) -/
def statusRead (s : State) : Reply := .status s.FAULT.kind s.FAULT.info

/-- The fields of the record of R20 (R45). -/
inductive DbgField where
  | mem (a : Addr)
  | V (x : Nibble)
  | I
  | pc
  | SP
  | stack (k : Nibble)
  | DT
  | ST
  | FB (x : Column) (y : Row)
  | FAULT
  deriving DecidableEq, Repr

/-- The width of a field (R20); `FAULT` is its kind above its info (log 11). -/
@[reducible] def DbgField.width : DbgField → Nat
  | .mem _ => 8
  | .V _ => 8
  | .I => 12
  | .pc => 16
  | .SP => 5
  | .stack _ => 16
  | .DT => 8
  | .ST => 8
  | .FB _ _ => 1
  | .FAULT => 19

/-- `dbg_read(field)` (R45) -/
def dbgRead (f : DbgField) (s : State) : BitVec f.width :=
  match f with
  | .mem a => s.byteAt a.toNat
  | .V x => s.readV x
  | .I => s.I
  | .pc => s.pc
  | .SP => BitVec.ofNat 5 s.SP.val
  | .stack k => s.stack.get k.toFin
  | .DT => s.DT
  | .ST => s.ST
  | .FB x y => BitVec.ofBool (s.pixel x y)
  | .FAULT => s.FAULT.kind ++ s.FAULT.info

/-- `dbg_write(field, v)` (R45): none when the write is refused, which a write of `SP` > 16 is, and any write of
`FAULT` (log 11). -/
def dbgWrite (f : DbgField) (v : BitVec f.width) (s : State) : Option State :=
  match f, v with
  | .mem a, v => some { s with mem := s.mem.write s.cfg a.toNat v }
  | .V x, v => some (s.setV x v)
  | .I, v => some (s.setI v)
  | .pc, v => some (s.setPc v)
  | .SP, v => if h : BitVec.toNat v < 17 then some { s with SP := ⟨BitVec.toNat v, h⟩ } else none
  | .stack k, v => some { s with stack := s.stack.set k.toNat v k.isLt }
  | .DT, v => some { s with DT := v }
  | .ST, v => some { s with ST := v }
  | .FB x y, v => some (s.setFB (s.FB.setPixel x y (BitVec.getLsbD v 0)))
  | .FAULT, _ => none

/-- The transactions of R40. -/
inductive Transaction where
  | tick (rnd : Byte)
  | reset
  | load (data : List Byte)
  | fbRead (x : Column) (y : Row)
  | dbgRead (f : DbgField)
  | dbgWrite (f : DbgField) (v : BitVec f.width)
  | status

/-- The block between transactions. At power-on `state` is arbitrary and `ready` is false (R21). -/
structure Block where
  state : State
  ready : Bool
  deriving DecidableEq, Repr

/-- One transaction (R40, R47): the block after it and its answer. No tick is admitted before a reset or a load
(R21, 70_reset_and_hazards.md R209). -/
def transact (x : Transaction) (b : Block) : Host.Outcome (Block × Reply) Fault Refusal :=
  match x with
  | .tick rnd =>
    if b.ready then
      match Sys2Proof.Machine.tick rnd b.state with
      | .next (t, r) => .next ({ b with state := t }, r)
      | .fault f => .fault f
      | .refused r => .refused r
    else .refused .tickBeforeReset
  | .reset => .next ({ state := b.state.resetBlock, ready := true }, .ok)
  | .load data =>
    match Sys2Proof.Machine.load data b.state with
    | (t, .ok) => .next ({ state := t, ready := true }, .ok)
    | (t, r) => .next ({ b with state := t }, r)
  | .fbRead x y => .next (b, .pixel (Sys2Proof.Machine.fbRead x y b.state))
  | .dbgRead f => .next (b, .value f.width (Sys2Proof.Machine.dbgRead f b.state))
  | .dbgWrite f v =>
    match Sys2Proof.Machine.dbgWrite f v b.state with
    | some t => .next ({ b with state := t }, .ok)
    | none => .next (b, .notWritten)
  | .status => .next (b, statusRead b.state)

end Sys2Proof.Machine
end

