-- ==== Sys2Proof/Safety.lean ====
section
/-! DEFINITION. The terms the statements use: well-formed and reachable states, what a program must respect, frames, and
the pixels a sprite covers. -/

namespace Sys2Proof

open Machine

/-- What an instruction needs in order to run without error (70_reset_and_hazards.md R210, 60_exceptions.md R170). -/
def Instr.canRun (s : State) : Instr → Prop
  | .cls _ => True
  | .ret _ => s.SP.val ≠ 0
  | .jp _ => True
  | .call _ => s.SP.val < 16
  | .seImm _ _ => True
  | .sneImm _ _ => True
  | .seReg _ _ _ => True
  | .ldImm _ _ => True
  | .addImm _ _ => True
  | .ldReg _ _ => True
  | .orReg _ _ => True
  | .andReg _ _ => True
  | .xorReg _ _ => True
  | .addReg _ _ => True
  | .sub _ _ => True
  | .shr _ _ => True
  | .subn _ _ => True
  | .shl _ _ => True
  | .ldI _ => True
  | .jpV0 _ => True
  | .rnd _ _ => True
  | .drw _ _ n => s.cfg.drawReferenceFault = false ∧ s.I.toNat + n.toNat ≤ 4096

/-- The registers an instruction may write, as destination or as flag (10_state.md R23, R36). -/
def Instr.writtenRegs : Instr → List Nibble
  | .cls _ => []
  | .ret _ => []
  | .jp _ => []
  | .call _ => []
  | .seImm _ _ => []
  | .sneImm _ _ => []
  | .seReg _ _ _ => []
  | .ldImm x _ => [x]
  | .addImm x _ => [x]
  | .ldReg x _ => [x]
  | .orReg x _ => [x]
  | .andReg x _ => [x]
  | .xorReg x _ => [x]
  | .addReg x _ => [x, 0xF]
  | .sub x _ => [x, 0xF]
  | .shr x _ => [x, 0xF]
  | .subn x _ => [x, 0xF]
  | .shl x _ => [x, 0xF]
  | .ldI _ => []
  | .jpV0 _ => []
  | .rnd x _ => [x]
  | .drw _ _ _ => [0xF]

end Sys2Proof

namespace Sys2Proof.Machine

/-- Slot `k` of the return stack. -/
def State.slot (s : State) (k : Nibble) : Word := s.stack.get k.toFin

/-- The well-formed states of 10_state.md R35, with the model's canonical memory (log 6). The bounds but those of
`FAULT.kind` and of memory follow from the widths of the fields. -/
def State.wf (s : State) : Prop :=
  s.SP.val ≤ 16 ∧ s.I.toNat < 4096 ∧ (∀ x, (s.readV x).toNat < 256) ∧ s.DT.toNat < 256 ∧ s.ST.toNat < 256 ∧
  (∀ k, (s.slot k).toNat < 65536) ∧ s.FAULT.kind.toNat ≤ 6 ∧ s.mem.wf s.cfg = true

/-- What instructions keep of `pc` and the stack (10_state.md R26: "no sum exceeds 0x10FE"; 40_control_flow.md R111: a
return address is at most 0x1000). -/
def State.addressesBounded (s : State) : Prop :=
  s.pc.toNat ≤ 0x10FE ∧ ∀ k, (s.slot k).toNat ≤ 0x1000

/-- What a tick can leave in `FAULT` (10_state.md R33, 60_exceptions.md R170, R171, R173): no info without an error, no
`RomTooLarge`, and `NotImplemented` only under its configuration flag. -/
def State.faultCoherent (s : State) : Prop :=
  (s.FAULT.kind = 0 → s.FAULT.info = 0) ∧ s.FAULT.kind ≠ 5 ∧ s.FAULT.kind ≠ 7 ∧
  (s.FAULT.kind = 6 → s.cfg.drawReferenceFault = true)

/-- What the next tick needs in order to run without error (70_reset_and_hazards.md R210). -/
def State.safeToRun (s : State) : Prop :=
  s.pc.toNat ≤ 0xFFE ∧
  ∃ i, decode (wordOfBytes (s.byteAt s.pc.toNat) (s.byteAt (s.pc.toNat + 1))) = .ok i ∧ Instr.canRun s i

/-! ### Frames -/

/-- One part of the state. -/
inductive Part where
  | byte (a : Nat)
  | V (x : Nibble)
  | I
  | pc
  | SP
  | slot (k : Nibble)
  | DT
  | ST
  | pixel (x : Column) (y : Row)
  | FAULT
  | cfg
  | draws
  | drawCount
  deriving DecidableEq, Repr

/-- The part reads the same in both states; a byte is read by the machine's own `MemRead`. -/
def Part.same (s t : State) : Part → Prop
  | .byte a => t.memRead a = s.memRead a
  | .V x => t.readV x = s.readV x
  | .I => t.I = s.I
  | .pc => t.pc = s.pc
  | .SP => t.SP = s.SP
  | .slot k => t.slot k = s.slot k
  | .DT => t.DT = s.DT
  | .ST => t.ST = s.ST
  | .pixel x y => t.pixel x y = s.pixel x y
  | .FAULT => t.FAULT = s.FAULT
  | .cfg => t.cfg = s.cfg
  | .draws => t.draws = s.draws
  | .drawCount => t.drawCount = s.drawCount

/-- From `s` to `t` nothing changed but what `may` names. -/
def ChangesOnly (may : Part → Prop) (s t : State) : Prop := ∀ p, ¬ may p → p.same s t

/-- Every word the row of 30_encoding.md R90 matches decodes to the instruction `mk` builds from it. -/
def DecodesAs (pattern mask : Word) (mk : Word → Instr) : Prop := ∀ w, w &&& mask = pattern → decode w = .ok (mk w)

/-! ### Sprites -/

/-- The sprite of `n` bytes at `I`, drawn at (`x0`, `y0`), has a set bit at the pixel (43_display.md R161 to R163): bit
`7 - dc` of the byte at `I + dr` is the pixel of column `(x0 + dc) mod 64` and row `(y0 + dr) mod 32`. -/
def State.spriteCovers (s : State) (x0 y0 n : Nat) (c : Column) (r : Row) : Prop :=
  ∃ dc dr, dc < 8 ∧ dr < n ∧ c.val = (x0 + dc) % 64 ∧ r.val = (y0 + dr) % 32 ∧
    (s.byteAt (s.I.toNat + dr)).getLsbD (7 - dc) = true

end Sys2Proof.Machine
end

