-- ==== Sys2Proof/Certificates/Slice0/Obligations.lean ====
section
/-! DEFINITION. The statements for the provers. Each docstring names the rules of spec/ it formalises; "the spec's
decision" marks what the spec itself chose (spec/92_eei_decisions.md), and "log n" what the model chose. -/

open Sys2Proof Sys2Proof.Machine

/-! ### Encoding and decode -/

/-- 30_encoding.md R82: each field of the decoded view is the word shifted and masked as the rule says. -/
def Obligations.DecodedFieldsAreShiftsAndMasks : Prop :=
  ∀ w : Word, (splitWord w).w = w ∧ (splitWord w).f.toNat = (w.toNat >>> 12) &&& 0xF ∧
    (splitWord w).x.toNat = (w.toNat >>> 8) &&& 0xF ∧ (splitWord w).y.toNat = (w.toNat >>> 4) &&& 0xF ∧
    (splitWord w).n.toNat = w.toNat &&& 0xF ∧ (splitWord w).nn.toNat = w.toNat &&& 0xFF ∧
    (splitWord w).nnn.toNat = w.toNat &&& 0xFFF

/-- 30_encoding.md R81, R90: words written out from the encodings, one for each family and sub-key. -/
def Obligations.WrittenOutWordsDecode : Prop :=
  decode 0x00E0 = .ok (.cls 0) ∧ decode 0x0FEE = .ok (.ret 0xF) ∧ decode 0x1234 = .ok (.jp 0x234) ∧
  decode 0x2300 = .ok (.call 0x300) ∧ decode 0x3342 = .ok (.seImm 3 0x42) ∧ decode 0x512F = .ok (.seReg 1 2 0xF) ∧
  decode 0x6A7F = .ok (.ldImm 0xA 0x7F) ∧ decode 0x8127 = .ok (.subn 1 2) ∧ decode 0x840E = .ok (.shl 4 0) ∧
  decode 0xA23C = .ok (.ldI 0x23C) ∧ decode 0xC30F = .ok (.rnd 3 0x0F) ∧ decode 0xD015 = .ok (.drw 0 1 5) ∧
  decode 0x9120 = .error (.noHandler 0x9120) ∧ decode 0x8008 = .error (.noSubHandler 0x8008)

/-- 30_encoding.md R82, R87, R90: decode of encode gives every instruction back, each operand at each of its values. -/
def Obligations.DecodeOfEncode : Prop := ∀ i : Instr, decode (encode i) = .ok i

/-- 30_encoding.md R90, R93: a word that decodes is the encoding of its instruction, the ignored nibbles included. -/
def Obligations.EncodeOfDecode : Prop := ∀ w i, decode w = .ok i → encode i = w

/-- 30_encoding.md R90: a word a row matches decodes to an instruction of that row, a word no row matches decodes to
nothing, and no word is matched by two rows. -/
def Obligations.OpcodeRowsDecideDecoding : Prop :=
  (∀ w r, r ∈ opcodeMap → r.matchesWord w = true → ∃ i, decode w = .ok i ∧ opcodeRow i = r) ∧
  (∀ w, (∀ r ∈ opcodeMap, r.matchesWord w = false) → ∃ e, decode w = .error e) ∧
  (∀ w r r', r ∈ opcodeMap → r' ∈ opcodeMap → r.matchesWord w = true → r'.matchesWord w = true → r = r')

/-- 30_encoding.md R95 (the spec's own inference from its table): the unsupported words are exactly the listed ones. -/
def Obligations.UnsupportedWordsAreTheListedOnes : Prop :=
  ∀ w : Word, (∃ e, decode w = .error e) ↔
    (w.extractLsb' 12 4 = 0x9 ∨ w.extractLsb' 12 4 = 0xE ∨ w.extractLsb' 12 4 = 0xF ∨
     (w.extractLsb' 12 4 = 0x0 ∧ w.extractLsb' 0 8 ≠ 0xE0 ∧ w.extractLsb' 0 8 ≠ 0xEE) ∨
     (w.extractLsb' 12 4 = 0x8 ∧ ((8 ≤ (w.extractLsb' 0 4).toNat ∧ (w.extractLsb' 0 4).toNat ≤ 0xD) ∨
       w.extractLsb' 0 4 = 0xF)))

/-- 30_encoding.md R91, R92, R93, R97: an instruction whose ignored nibble is not 0 runs as the form an assembler emits,
which is well formed. -/
def Obligations.IgnoredNibblesDoNotMatter : Prop :=
  ∀ i s, exec i.canonical s = exec i s ∧ i.canonical.wellFormed = true ∧ (i.wellFormed = true → i.canonical = i)

/-! ### The tick -/

/-- 30_encoding.md R84, R87, R88: with no error latched, a step whose fetched word decodes to `i` is `exec i`, then the
timers unless `i` raised (for `ST` the spec's decision D9), then the draw used up (log 4). -/
def Obligations.StepRunsTheDecodedInstruction : Prop :=
  ∀ s w i, s.FAULT.kind = 0 → s.fetchWord = .ok w → decode w = .ok i →
    ∃ t, exec i s = .next t ∧
      step s = .next (if t.FAULT.kind = 0 then t.tickTimers.consumeDraw else t.consumeDraw)

/-- 20_memory.md R64: the fetch is big-endian and succeeds exactly when `pc` ≤ 0xFFE; otherwise it raises with the first
address outside memory (the info is the spec's decision D5). -/
def Obligations.FetchIsBigEndianUpToTheLastWord : Prop :=
  ∀ s : State,
    (s.pc.toNat ≤ 0xFFE → ∃ hi lo, s.memRead s.pc.toNat = .ok hi ∧ s.memRead (s.pc.toNat + 1) = .ok lo ∧
      ∃ w, s.fetchWord = .ok w ∧ w.extractLsb' 8 8 = hi ∧ w.extractLsb' 0 8 = lo) ∧
    (s.pc.toNat = 0xFFF → s.fetchWord = .error ⟨.outOfBoundsAccess, 0x1000⟩) ∧
    (0x1000 ≤ s.pc.toNat → s.fetchWord = .error ⟨.outOfBoundsAccess, s.pc⟩)

/-- Every step answers a next state: no error of this hardware stops it (60_exceptions.md R172 to R175, the spec's
decisions D4 and D6; log 5). -/
def Obligations.EveryStepAnswersANextState : Prop := ∀ s, ∃ t, step s = .next t

/-- 60_exceptions.md R174 (the spec's decision D6): while an error is latched a tick changes no state and returns the
latched error. -/
def Obligations.LatchedTickChangesNothing : Prop :=
  ∀ s rnd, s.FAULT.kind ≠ 0 → step s = .next s ∧ tick rnd s = .next (s, .error s.FAULT.kind s.FAULT.info)

/-- 60_exceptions.md R172 (the spec's decision D4): a tick that raises leaves every field but `FAULT` as before (the draw
input, which is no state of the block, is used up: log 4). -/
def Obligations.FailedTickCommitsNothing : Prop :=
  ∀ s t, s.FAULT.kind = 0 → step s = .next t → t.FAULT.kind ≠ 0 →
    ChangesOnly (fun p => p = .FAULT ∨ p = .draws ∨ p = .drawCount) s t ∧ t.mem = s.mem

/-- 60_exceptions.md R170, R171, R173, R176 (the spec's decisions D5, D6, D7): which error a tick latches, with its code
and info, in the order of the tick. -/
def Obligations.TickLatchesTheFirstError : Prop :=
  ∀ s : State, s.FAULT.kind = 0 →
    (0x1000 ≤ s.pc.toNat → step s = .next ({ s with FAULT := ⟨4, s.pc⟩ } : State).consumeDraw) ∧
    (s.pc.toNat = 0xFFF → step s = .next ({ s with FAULT := ⟨4, 0x1000⟩ } : State).consumeDraw) ∧
    ∀ w, s.fetchWord = .ok w →
      ((∃ e, decode w = .error e) → step s = .next ({ s with FAULT := ⟨1, w⟩ } : State).consumeDraw) ∧
      (∀ nnn, decode w = .ok (.call nnn) → s.SP.val = 16 →
        step s = .next ({ s with FAULT := ⟨2, s.pc⟩ } : State).consumeDraw) ∧
      (∀ x, decode w = .ok (.ret x) → s.SP.val = 0 →
        step s = .next ({ s with FAULT := ⟨3, s.pc⟩ } : State).consumeDraw) ∧
      (∀ x y n, decode w = .ok (.drw x y n) → s.cfg.drawReferenceFault = true →
        step s = .next ({ s with FAULT := ⟨6, w⟩ } : State).consumeDraw) ∧
      (∀ x y n r, decode w = .ok (.drw x y n) → s.cfg.drawReferenceFault = false → r < n.toNat →
        4096 ≤ s.I.toNat + r → (∀ q, q < r → s.I.toNat + q < 4096) →
        step s = .next ({ s with FAULT := ⟨4, BitVec.ofNat 16 (s.I.toNat + r)⟩ } : State).consumeDraw)

/-- 70_reset_and_hazards.md R210: a tick runs without error exactly when the program respects what the rule lists. -/
def Obligations.TickCommitsExactlyWhenRulesAreRespected : Prop :=
  ∀ s, s.FAULT.kind = 0 → ∃ t, step s = .next t ∧ (t.FAULT.kind = 0 ↔ s.safeToRun)

/-- 60_exceptions.md R186, 30_encoding.md R88: after N ticks none of which raised, each timer is max(k − N, 0) (for
`ST` the spec's decision D9). -/
def Obligations.TimersCountDownToZero : Prop :=
  ∀ n s t, s.FAULT.kind = 0 → Host.Core.run core n s = .next t → t.FAULT.kind = 0 →
    t.DT.toNat = max ((s.DT.toNat : Int) - n) 0 ∧ t.ST.toNat = max ((s.ST.toNat : Int) - n) 0

/-- 20_memory.md R63, R67, R72 (the spec's own inference): no tick writes memory or changes the configuration. -/
def Obligations.NoTickWritesMemory : Prop :=
  ∀ s t, step s = .next t → (∀ a, t.memRead a = s.memRead a) ∧ t.mem = s.mem ∧ t.cfg = s.cfg

/-- 10_state.md R23, R36 (the spec's own summary): which instructions write which state. That RET, which R36 lists among
the writers of "SP, stack", leaves every slot is R29 with the spec's decision D28 (log 14). That no instruction writes the
configuration or the draw inputs is R37 and R34 (the spec's decisions D1, D16) in the model's own fields (log 1, log 3);
the timers move in the step, after `exec` (log 19). -/
def Obligations.StateIsWrittenOnlyByItsInstructions : Prop :=
  ∀ i s t, exec i s = .next t →
    (∀ x, t.readV x ≠ s.readV x → x ∈ i.writtenRegs) ∧
    (t.I ≠ s.I → ∃ nnn, i = .ldI nnn) ∧
    (t.SP ≠ s.SP → (∃ x, i = .ret x) ∨ ∃ nnn, i = .call nnn) ∧
    (t.stack ≠ s.stack → ∃ nnn, i = .call nnn) ∧
    (t.FB ≠ s.FB → (∃ x, i = .cls x) ∨ ∃ x y n, i = .drw x y n) ∧
    t.mem = s.mem ∧ t.DT = s.DT ∧ t.ST = s.ST ∧ t.cfg = s.cfg ∧ t.draws = s.draws ∧ t.drawCount = s.drawCount

/-- 10_state.md R34 (the spec's decision D16): every instruction but CXNN ignores the draw. -/
def Obligations.OnlyRndDependsOnTheDraw : Prop :=
  ∀ i s t ds n, (∀ x nn, i ≠ .rnd x nn) → exec i s = .next t →
    exec i { s with draws := ds, drawCount := n } = .next { t with draws := ds, drawCount := n }

/-- 10_state.md R41, 41_load_immediate.md R133: in `tick(rnd)` an RND writes `rnd & nn` for the draw it was given. -/
def Obligations.TickGivesItsDrawToRnd : Prop :=
  ∀ s rnd w x nn, s.FAULT.kind = 0 → s.fetchWord = .ok w → decode w = .ok (.rnd x nn) →
    ∃ t, tick rnd s = .next (t, .ok) ∧ t.readV x = rnd &&& nn ∧ t.pc = s.pc + 2 ∧
      ChangesOnly (fun p => p = .V x ∨ p = .pc ∨ p = .DT ∨ p = .ST) s t

/-! ### Invariants -/

/-- 10_state.md R35 (with the model's canonical memory, log 6): every tick keeps a well-formed state well formed. -/
def Obligations.StepKeepsWellFormedStates : Prop := ∀ s t, s.wf → step s = .next t → t.wf

/-- 10_state.md R35, 70_reset_and_hazards.md R200: the reset state is well formed, whatever the configuration. -/
def Obligations.ResetStateIsWellFormed : Prop := ∀ c, (State.resetOf c).wf

/-- 10_state.md R35: "Every transaction of the block maps a well-formed state to a well-formed state", and a state with
`pc` > 0xFFE is well formed as any other: its next tick raises OutOfBoundsAccess. -/
def Obligations.TransactionsKeepWellFormedStates : Prop :=
  (∀ x b b' r, b.state.wf → transact x b = .next (b', r) → b'.state.wf) ∧
  (∀ (s : State) (p : Word), s.wf → s.FAULT.kind = 0 → 0xFFE < p.toNat →
    (s.setPc p).wf ∧ ∃ t, step (s.setPc p) = .next t ∧ t.FAULT.kind = 4)

/-- 10_state.md R26, 40_control_flow.md R110, R111: from states whose `pc` is at most 0x10FE and whose return addresses
are at most 0x1000, every step leads to such a state. -/
def Obligations.StepKeepsAddressesBounded : Prop := ∀ s t, s.addressesBounded → step s = .next t → t.addressesBounded

/-- The reset state meets that bound (70_reset_and_hazards.md R200). -/
def Obligations.ResetStateHasBoundedAddresses : Prop := ∀ c, (State.resetOf c).addressesBounded

/-- 10_state.md R33, 60_exceptions.md R170, R173: `FAULT` holds no info without an error, never RomTooLarge, and
NotImplemented only under its flag; every tick keeps this, and reset has it. -/
def Obligations.StepKeepsFaultCoherent : Prop :=
  (∀ s t, s.faultCoherent → step s = .next t → t.faultCoherent) ∧ ∀ c, (State.resetOf c).faultCoherent

/-! ### Control transfer -/

/-- 40_control_flow.md R111: RET pops the return address; on an empty stack it raises StackUnderflow(A)
(the spec's decisions D3, D5). -/
def Obligations.RetPopsTheReturnAddress : Prop :=
  DecodesAs 0x00EE 0xF0FF (fun w => .ret (w.extractLsb' 8 4)) ∧
  (∀ x s k, s.SP.val = k + 1 → ∃ t, exec (.ret x) s = .next t ∧ t.SP.val = k ∧ t.pc = s.slot (BitVec.ofNat 4 k) ∧
    ChangesOnly (fun p => p = .pc ∨ p = .SP) s t) ∧
  (∀ x s, s.SP.val = 0 → exec (.ret x) s = .next { s with FAULT := ⟨3, s.pc⟩ })

/-- 40_control_flow.md R112: JP sets `pc` to NNN and nothing else, any target being legal; a target of 0xFFF makes the
next fetch raise OutOfBoundsAccess(0x1000) (the info is the spec's decision D5); a jump to its own address repeats, each tick decrementing the timers (and
using up its draw, log 4). -/
def Obligations.JpSetsThePc : Prop :=
  DecodesAs 0x1000 0xF000 (fun w => .jp (w.extractLsb' 0 12)) ∧
  (∀ nnn s, ∃ t, exec (.jp nnn) s = .next t ∧ t.pc.toNat = nnn.toNat ∧ ChangesOnly (fun p => p = .pc) s t ∧
    (nnn = 0xFFF → t.fetchWord = .error ⟨.outOfBoundsAccess, 0x1000⟩)) ∧
  (∀ s w nnn, s.FAULT.kind = 0 → s.fetchWord = .ok w → decode w = .ok (.jp nnn) → nnn.toNat = s.pc.toNat →
    ∃ t, step s = .next t ∧ ChangesOnly (fun p => p = .DT ∨ p = .ST ∨ p = .draws ∨ p = .drawCount) s t ∧
      t.DT.toNat = s.DT.toNat - 1 ∧ t.ST.toNat = s.ST.toNat - 1)

/-- 40_control_flow.md R113: CALL pushes `A` + 2 and jumps; on a full stack it raises StackOverflow(A) (the
spec's decisions D3, D5). -/
def Obligations.CallPushesTheReturnAddress : Prop :=
  DecodesAs 0x2000 0xF000 (fun w => .call (w.extractLsb' 0 12)) ∧
  (∀ nnn s, s.SP.val < 16 → ∃ t, exec (.call nnn) s = .next t ∧ t.SP.val = s.SP.val + 1 ∧ t.pc.toNat = nnn.toNat ∧
    t.slot (BitVec.ofNat 4 s.SP.val) = s.pc + 2 ∧
    ChangesOnly (fun p => p = .pc ∨ p = .SP ∨ p = .slot (BitVec.ofNat 4 s.SP.val)) s t) ∧
  (∀ nnn s, s.SP.val = 16 → exec (.call nnn) s = .next { s with FAULT := ⟨2, s.pc⟩ })

/-- 10_state.md R28, R29 (the spec's decisions D3, D28): "Push then pop of the same address returns that exact address,
and the stack pointer is restored to its pre-push value." The slot keeps the value (log 14). -/
def Obligations.PopReturnsThePushedAddress : Prop :=
  ∀ (s : State) (A B v : Word), s.SP.val < 16 →
    ∃ t u, s.push A v = .ok t ∧ t.pop B = .ok (v, u) ∧ u.SP = s.SP ∧
      u.slot (BitVec.ofNat 4 s.SP.val) = v ∧ ChangesOnly (fun p => p = .slot (BitVec.ofNat 4 s.SP.val)) s u

/-- 40_control_flow.md R114, R115, R116: a skip advances `pc` by 4 in all when its condition holds and by 2 when it does
not, and changes nothing else; a taken SE at 0xFFC leaves `pc` = 0x1000, so the next fetch raises OutOfBoundsAccess. -/
def Obligations.SkipsAdvanceByFourOrTwo : Prop :=
  DecodesAs 0x3000 0xF000 (fun w => .seImm (w.extractLsb' 8 4) (w.extractLsb' 0 8)) ∧
  DecodesAs 0x4000 0xF000 (fun w => .sneImm (w.extractLsb' 8 4) (w.extractLsb' 0 8)) ∧
  DecodesAs 0x5000 0xF000 (fun w => .seReg (w.extractLsb' 8 4) (w.extractLsb' 4 4) (w.extractLsb' 0 4)) ∧
  ∀ x s, (∀ nn, ∃ t, exec (.seImm x nn) s = .next t ∧ ChangesOnly (fun p => p = .pc) s t ∧
      t.pc = (if s.readV x = nn then s.pc + 4#16 else s.pc + 2#16) ∧
      (s.pc = 0xFFC → s.readV x = nn →
        t.pc = 0x1000 ∧ ∃ e, t.fetchWord = .error e ∧ e.kind = .outOfBoundsAccess)) ∧
    (∀ nn, ∃ t, exec (.sneImm x nn) s = .next t ∧ ChangesOnly (fun p => p = .pc) s t ∧
      t.pc = if s.readV x ≠ nn then s.pc + 4#16 else s.pc + 2#16) ∧
    (∀ y n, ∃ t, exec (.seReg x y n) s = .next t ∧ ChangesOnly (fun p => p = .pc) s t ∧
      t.pc = if s.readV x = s.readV y then s.pc + 4#16 else s.pc + 2#16)

/-- 40_control_flow.md R117 (the spec's decision D25 for the width): `pc` is V0 + NNN, not reduced to 12 bits; above
0xFFF the next fetch raises. -/
def Obligations.JpV0AddsV0ToTheTarget : Prop :=
  DecodesAs 0xB000 0xF000 (fun w => .jpV0 (w.extractLsb' 0 12)) ∧
  ∀ nnn s, ∃ t, exec (.jpV0 nnn) s = .next t ∧ t.pc.toNat = (s.readV 0).toNat + nnn.toNat ∧ t.pc.toNat ≤ 0x10FE ∧
    ChangesOnly (fun p => p = .pc) s t ∧
    (0xFFF < (s.readV 0).toNat + nnn.toNat → t.fetchWord = .error ⟨.outOfBoundsAccess, t.pc⟩)

/-! ### Immediate loads, add, index, random -/

/-- 41_load_immediate.md R130. -/
def Obligations.LdImmWritesOneRegister : Prop :=
  DecodesAs 0x6000 0xF000 (fun w => .ldImm (w.extractLsb' 8 4) (w.extractLsb' 0 8)) ∧
  ∀ x nn s, ∃ t, exec (.ldImm x nn) s = .next t ∧ t.readV x = nn ∧ t.pc = s.pc + 2 ∧
    ChangesOnly (fun p => p = .V x ∨ p = .pc) s t

/-- 41_load_immediate.md R131: the sum wraps at 256 and no flag is written. -/
def Obligations.AddImmWrapsWithoutFlag : Prop :=
  DecodesAs 0x7000 0xF000 (fun w => .addImm (w.extractLsb' 8 4) (w.extractLsb' 0 8)) ∧
  ∀ x nn s, ∃ t, exec (.addImm x nn) s = .next t ∧ (t.readV x).toNat = ((s.readV x).toNat + nn.toNat) % 256 ∧
    t.pc = s.pc + 2 ∧ ChangesOnly (fun p => p = .V x ∨ p = .pc) s t

/-- 41_load_immediate.md R132. -/
def Obligations.LdIWritesTheIndexRegister : Prop :=
  DecodesAs 0xA000 0xF000 (fun w => .ldI (w.extractLsb' 0 12)) ∧
  ∀ nnn s, ∃ t, exec (.ldI nnn) s = .next t ∧ t.I = nnn ∧ t.pc = s.pc + 2 ∧ ChangesOnly (fun p => p = .I ∨ p = .pc) s t

/-- 41_load_immediate.md R133, 10_state.md R34: the destination is the tick's draw ANDed with NN, whatever the draw is
(log 3, the spec's decision D16). -/
def Obligations.RndMasksTheDraw : Prop :=
  DecodesAs 0xC000 0xF000 (fun w => .rnd (w.extractLsb' 8 4) (w.extractLsb' 0 8)) ∧
  (∀ x nn s, ∃ t, exec (.rnd x nn) s = .next t ∧ t.readV x = s.nextDraw &&& nn ∧ t.pc = s.pc + 2 ∧
    ChangesOnly (fun p => p = .V x ∨ p = .pc) s t) ∧
  (∀ (s : State) d ds, s.draws = d :: ds → s.nextDraw = d)

/-! ### Family 0x8 -/

/-- 42_alu.md R142, R143, R144, R145: copy and logic write the destination from the operands and no flag. -/
def Obligations.CopyAndLogicWriteOnlyTheDestination : Prop :=
  DecodesAs 0x8000 0xF00F (fun w => .ldReg (w.extractLsb' 8 4) (w.extractLsb' 4 4)) ∧
  DecodesAs 0x8001 0xF00F (fun w => .orReg (w.extractLsb' 8 4) (w.extractLsb' 4 4)) ∧
  DecodesAs 0x8002 0xF00F (fun w => .andReg (w.extractLsb' 8 4) (w.extractLsb' 4 4)) ∧
  DecodesAs 0x8003 0xF00F (fun w => .xorReg (w.extractLsb' 8 4) (w.extractLsb' 4 4)) ∧
  ∀ x y s,
    (∃ t, exec (.ldReg x y) s = .next t ∧ t.readV x = s.readV y ∧ t.pc = s.pc + 2 ∧
      ChangesOnly (fun p => p = .V x ∨ p = .pc) s t) ∧
    (∃ t, exec (.orReg x y) s = .next t ∧ t.readV x = s.readV x ||| s.readV y ∧ t.pc = s.pc + 2 ∧
      ChangesOnly (fun p => p = .V x ∨ p = .pc) s t) ∧
    (∃ t, exec (.andReg x y) s = .next t ∧ t.readV x = s.readV x &&& s.readV y ∧ t.pc = s.pc + 2 ∧
      ChangesOnly (fun p => p = .V x ∨ p = .pc) s t) ∧
    (∃ t, exec (.xorReg x y) s = .next t ∧ t.readV x = s.readV x ^^^ s.readV y ∧ t.pc = s.pc + 2 ∧
      ChangesOnly (fun p => p = .V x ∨ p = .pc) s t)

/-- 42_alu.md R146, R140, R141 (the spec's decision D10): the sum modulo 256, then VF = 1 exactly when the exact sum
exceeds 255; with `x` = 0xF the carry is what stays. -/
def Obligations.AddRegWritesSumThenCarry : Prop :=
  DecodesAs 0x8004 0xF00F (fun w => .addReg (w.extractLsb' 8 4) (w.extractLsb' 4 4)) ∧
  ∀ x y s, ∃ t, exec (.addReg x y) s = .next t ∧
    t.readV 0xF#4 = (if (s.readV x).toNat + (s.readV y).toNat > 255 then 1 else 0) ∧
    (x ≠ 0xF#4 → (t.readV x).toNat = ((s.readV x).toNat + (s.readV y).toNat) % 256) ∧
    t.pc = s.pc + 2 ∧ ChangesOnly (fun p => p = .V x ∨ p = .V 0xF#4 ∨ p = .pc) s t

/-- 42_alu.md R147, R140, R141 (the spec's decision D10): VF = 1 exactly when no borrow occurs, then the difference
modulo 256; with `x` = 0xF the difference is what stays. -/
def Obligations.SubWritesNoBorrowThenDifference : Prop :=
  DecodesAs 0x8005 0xF00F (fun w => .sub (w.extractLsb' 8 4) (w.extractLsb' 4 4)) ∧
  ∀ x y s, ∃ t, exec (.sub x y) s = .next t ∧
    (x ≠ 0xF#4 → t.readV 0xF#4 = if (s.readV x).toNat ≥ (s.readV y).toNat then 1 else 0) ∧
    ((t.readV x).toNat : Int) = ((s.readV x).toNat - (s.readV y).toNat : Int) % 256 ∧
    t.pc = s.pc + 2 ∧ ChangesOnly (fun p => p = .V x ∨ p = .V 0xF#4 ∨ p = .pc) s t

/-- 42_alu.md R148, R150, R140, R141 (the spec's decisions D10 and D12): the shifts by one bit write the bit shifted out,
then the shifted value, which is what VF holds with `x` = 0xF; they do not depend on Y. -/
def Obligations.ShiftsWriteTheLostBitThenTheValue : Prop :=
  DecodesAs 0x8006 0xF00F (fun w => .shr (w.extractLsb' 8 4) (w.extractLsb' 4 4)) ∧
  DecodesAs 0x800E 0xF00F (fun w => .shl (w.extractLsb' 8 4) (w.extractLsb' 4 4)) ∧
  ∀ x y s,
    (∃ t, exec (.shr x y) s = .next t ∧ (x ≠ 0xF#4 → (t.readV 0xF#4).toNat = (s.readV x).toNat % 2) ∧
      (t.readV x).toNat = (s.readV x).toNat / 2 ∧ t.pc = s.pc + 2 ∧
      ChangesOnly (fun p => p = .V x ∨ p = .V 0xF#4 ∨ p = .pc) s t) ∧
    (∃ t, exec (.shl x y) s = .next t ∧ (x ≠ 0xF#4 → (t.readV 0xF#4).toNat = (s.readV x).toNat / 128) ∧
      (t.readV x).toNat = (s.readV x).toNat * 2 % 256 ∧ t.pc = s.pc + 2 ∧
      ChangesOnly (fun p => p = .V x ∨ p = .V 0xF#4 ∨ p = .pc) s t)

/-- 42_alu.md R149, R140, R141 (the spec's decisions D10 and D11): Vy − Vx modulo 256 and the no-borrow flag, in the
order `SUBN_FLAG_ORDER` selects: with `x` = 0xF the difference stays under `before`, the flag under `after`. -/
def Obligations.SubnWritesDifferenceAndNoBorrow : Prop :=
  DecodesAs 0x8007 0xF00F (fun w => .subn (w.extractLsb' 8 4) (w.extractLsb' 4 4)) ∧
  ∀ x y s, ∃ t, exec (.subn x y) s = .next t ∧
    ((x ≠ 0xF#4 ∨ s.cfg.subnFlagOrder = .after) →
      t.readV 0xF#4 = if (s.readV y).toNat ≥ (s.readV x).toNat then 1 else 0) ∧
    ((x ≠ 0xF#4 ∨ s.cfg.subnFlagOrder = .before) →
      ((t.readV x).toNat : Int) = ((s.readV y).toNat - (s.readV x).toNat : Int) % 256) ∧
    t.pc = s.pc + 2 ∧ ChangesOnly (fun p => p = .V x ∨ p = .V 0xF#4 ∨ p = .pc) s t

/-- 42_alu.md R149 (the spec's own inference): for `x` ≠ 0xF both values of `SUBN_FLAG_ORDER` give the same result and the same flag. -/
def Obligations.SubnOrdersAgreeOffVF : Prop :=
  ∀ x y (s t u : State), x ≠ 0xF#4 →
    exec (.subn x y) { s with cfg := { s.cfg with subnFlagOrder := .before } } = .next t →
    exec (.subn x y) { s with cfg := { s.cfg with subnFlagOrder := .after } } = .next u →
    ∀ j, t.readV j = u.readV j

/-! ### Framebuffer -/

/-- 43_display.md R160. -/
def Obligations.ClsClearsEveryPixel : Prop :=
  DecodesAs 0x00E0 0xF0FF (fun w => .cls (w.extractLsb' 8 4)) ∧
  ∀ x s, ∃ t, exec (.cls x) s = .next t ∧ (∀ c r, t.pixel c r = false) ∧ t.pc = s.pc + 2 ∧
    ChangesOnly (fun p => p = .pc ∨ ∃ c r, p = .pixel c r) s t

/-- 43_display.md R161, R162, R163 (the spec's decision D13): DRW flips exactly the pixels the sprite covers, with
per-pixel wraparound, and VF is 1 exactly when some pixel went from true to false. -/
def Obligations.DrwFlipsExactlyTheSpritePixels : Prop :=
  ∀ x y n s, s.cfg.drawReferenceFault = false → s.I.toNat + n.toNat ≤ 4096 →
    ∃ t, exec (.drw x y n) s = .next t ∧
      (∀ c r, s.spriteCovers (s.readV x).toNat (s.readV y).toNat n.toNat c r → t.pixel c r = !s.pixel c r) ∧
      (∀ c r, ¬ s.spriteCovers (s.readV x).toNat (s.readV y).toNat n.toNat c r → t.pixel c r = s.pixel c r) ∧
      ((∃ c r, s.pixel c r = true ∧ t.pixel c r = false) → t.readV 0xF#4 = 1) ∧
      ((∀ c r, ¬ (s.pixel c r = true ∧ t.pixel c r = false)) → t.readV 0xF#4 = 0) ∧
      t.pc = s.pc + 2 ∧ ChangesOnly (fun p => p = .V 0xF#4 ∨ p = .pc ∨ ∃ c r, p = .pixel c r) s t

/-- 43_display.md R161: "`n` = 0 reads no byte, changes no pixel and writes VF = 0", for every `I` (the spec's decision D13). -/
def Obligations.DrwOfNoRowsOnlyClearsVF : Prop :=
  ∀ x y s, s.cfg.drawReferenceFault = false →
    ∃ t, exec (.drw x y 0) s = .next t ∧ t.readV 0xF#4 = 0 ∧ t.pc = s.pc + 2 ∧
      ChangesOnly (fun p => p = .V 0xF#4 ∨ p = .pc) s t

/-- 43_display.md R161, R164 (the spec's decisions D13, D14): a sprite that leaves memory raises with the first address
outside it, and under `DRAW_REFERENCE_FAULT` every DRW raises NotImplemented with its word; nothing else changes. -/
def Obligations.DrwRaisesOutsideMemoryOrByReference : Prop :=
  DecodesAs 0xD000 0xF000 (fun w => .drw (w.extractLsb' 8 4) (w.extractLsb' 4 4) (w.extractLsb' 0 4)) ∧
  (∀ x y n s, s.cfg.drawReferenceFault = false → 4096 < s.I.toNat + n.toNat →
    exec (.drw x y n) s = .next { s with FAULT := ⟨4, 0x1000⟩ }) ∧
  (∀ x y n s, s.cfg.drawReferenceFault = true →
    exec (.drw x y n) s = .next { s with FAULT := ⟨6, encode (.drw x y n)⟩ })

/-! ### Memory, reset, load and the other ports -/

/-- 20_memory.md R62, R63: a byte write is read back at its address and nowhere else, keeps memory canonical (log 6), and both
accesses are refused outside [0, 4096) with the truncated address (the spec's decision D5). -/
def Obligations.MemoryHoldsTheLastByteWritten : Prop :=
  ∀ (s : State) (a : Nat) (b : Byte), s.mem.wf s.cfg = true →
    (a < 4096 → ∃ t, s.memWrite a b = .ok t ∧ t.memRead a = .ok b ∧ t.mem.wf t.cfg = true ∧
      ChangesOnly (fun p => p = .byte a) s t) ∧
    (4096 ≤ a → s.memWrite a b = .error ⟨.outOfBoundsAccess, BitVec.ofNat 16 a⟩ ∧
      s.memRead a = .error ⟨.outOfBoundsAccess, BitVec.ofNat 16 a⟩)

/-- 70_reset_and_hazards.md R200, R201, R202, 10_state.md R42 (the spec's decisions D6, D8): what reset leaves, from any
state. -/
def Obligations.ResetRestoresTheBaseline : Prop :=
  ∀ s : State, (s.resetBlock).pc = 0x200 ∧ s.resetBlock.I = 0 ∧ s.resetBlock.SP.val = 0 ∧ s.resetBlock.DT = 0 ∧
    s.resetBlock.ST = 0 ∧ s.resetBlock.FAULT = ⟨0, 0⟩ ∧ (∀ x, s.resetBlock.readV x = 0) ∧
    (∀ k, s.resetBlock.slot k = 0) ∧ (∀ c r, s.resetBlock.pixel c r = false) ∧ s.resetBlock.cfg = s.cfg ∧
    (∀ a, a < s.cfg.font.length → a < 4096 → s.resetBlock.memRead a = .ok (s.cfg.font.getD a 0)) ∧
    (∀ a, s.cfg.font.length ≤ a → a < 4096 → s.resetBlock.memRead a = .ok 0)

/-- 70_reset_and_hazards.md R202: a tick right after a reset without a load raises UnsupportedInstruction(0x0000). -/
def Obligations.TickAfterBareResetIsUnsupported : Prop :=
  ∀ s : State, s.cfg.wf = true →
    ∃ t, step s.resetBlock = .next t ∧ t.FAULT = ⟨1, 0x0000⟩ ∧ t.pc = 0x200 ∧
      ChangesOnly (fun p => p = .FAULT ∨ p = .draws ∨ p = .drawCount) s.resetBlock t

/-- 70_reset_and_hazards.md R206, R207 (the spec's decision D17): a ROM that fits is copied to 0x200 over the reset
state; a longer one is refused and changes nothing. -/
def Obligations.LoadCopiesTheRomOrChangesNothing : Prop :=
  ∀ data s, (data.length ≤ 3584 → ∃ t, load data s = (t, .ok) ∧
      (∀ k b, data[k]? = some b → t.memRead (0x200 + k) = .ok b) ∧
      ChangesOnly (fun p => ∃ k, k < data.length ∧ p = .byte (0x200 + k)) s.resetBlock t) ∧
    (3584 < data.length → load data s = (s, .error 5 (BitVec.ofNat 16 (min data.length 0xFFFF))))

/-- 10_state.md R45 (the spec's decision D21; log 11): the debug port writes one field and no other, and refuses exactly
a write of `FAULT` and a write of `SP` above 16. -/
def Obligations.DebugPortWritesOneField : Prop :=
  (∀ (f : DbgField) (v : BitVec f.width) (s t : State), s.mem.wf s.cfg = true → dbgWrite f v s = some t →
    dbgRead f t = v ∧ (∀ g, g ≠ f → dbgRead g t = dbgRead g s) ∧ t.cfg = s.cfg ∧ t.draws = s.draws ∧
      t.drawCount = s.drawCount ∧ t.mem.wf t.cfg = true) ∧
  (∀ (f : DbgField) (v : BitVec f.width) (s : State),
    dbgWrite f v s = none ↔ f = .FAULT ∨ (f = .SP ∧ 16 < v.toNat))

/-- 10_state.md R21, R40, R44 to R46, 70_reset_and_hazards.md R209 (the spec's decision D23; log 10): a tick before the
first reset or load is refused, reset and a load that fits admit ticks, and the reads change nothing. -/
def Obligations.TicksAreAdmittedAfterResetOrLoad : Prop :=
  ∀ s : State,
    (∀ rnd, transact (.tick rnd) ⟨s, false⟩ = .refused .tickBeforeReset) ∧
    (∀ b, transact .reset ⟨s, b⟩ = .next (⟨s.resetBlock, true⟩, .ok)) ∧
    (∀ b data, data.length ≤ 3584 → ∃ t, transact (.load data) ⟨s, b⟩ = .next (⟨t, true⟩, .ok)) ∧
    (∀ b data, 3584 < data.length → ∃ r, transact (.load data) ⟨s, b⟩ = .next (⟨s, b⟩, r)) ∧
    (∀ rnd, ∃ t r, transact (.tick rnd) ⟨s, true⟩ = .next (⟨t, true⟩, r)) ∧
    (∀ b c r, transact (.fbRead c r) ⟨s, b⟩ = .next (⟨s, b⟩, .pixel (s.FB.pixel c r))) ∧
    (∀ b f, transact (.dbgRead f) ⟨s, b⟩ = .next (⟨s, b⟩, .value f.width (dbgRead f s))) ∧
    (∀ b, transact .status ⟨s, b⟩ = .next (⟨s, b⟩, .status s.FAULT.kind s.FAULT.info))

/-- 10_state.md R33, 60_exceptions.md R174, R179 (the spec's decision D6): a latched error leaves `FAULT` only through a
reset or a load that fits. -/
def Obligations.OnlyResetAndLoadClearTheFault : Prop :=
  ∀ x b b' r, b.state.FAULT.kind ≠ 0 → transact x b = .next (b', r) → b'.state.FAULT ≠ b.state.FAULT →
    b'.state.FAULT = ⟨0, 0⟩ ∧ (x = .reset ∨ ∃ data, x = .load data ∧ data.length ≤ 3584)

/-- The model's own entry for one instruction word (log 8): after `withFetchWord` the next fetch reads that word, no error
is latched, and where the fetch was possible before only the two bytes at `pc` changed. -/
def Obligations.PlacedWordIsFetchedNext : Prop :=
  ∀ (s : State) (w : Nat), s.mem.wf s.cfg = true → w < 65536 →
    (s.withFetchWord 16 w).FAULT.kind = 0 ∧ (s.withFetchWord 16 w).fetchWord = .ok (BitVec.ofNat 16 w) ∧
    (s.FAULT = ⟨0, 0⟩ → s.pc.toNat ≤ 0xFFE →
      ChangesOnly (fun p => p = .byte s.pc.toNat ∨ p = .byte (s.pc.toNat + 1)) s (s.withFetchWord 16 w))

/-- 10_state.md R41, 60_exceptions.md R173, R175 (the latch is the spec's decision D6): with no error latched, `tick(rnd)`
is the step whose draw is `rnd`, which is used up and leaves the other draws (log 3, log 4); it hands back `ok` exactly
when that step raised nothing, and otherwise the error it latched. -/
def Obligations.TickHandsBackTheErrorItRaised : Prop :=
  ∀ (s : State) (rnd : Byte), s.FAULT.kind = 0 →
    ∃ t r, step { s with draws := rnd :: s.draws } = .next t ∧ t.draws = s.draws ∧ t.drawCount = s.drawCount ∧
      tick rnd s = .next (t, r) ∧ transact (.tick rnd) ⟨s, true⟩ = .next (⟨t, true⟩, r) ∧
      (r = .ok ↔ t.FAULT.kind = 0) ∧ (t.FAULT.kind ≠ 0 → r = .error t.FAULT.kind t.FAULT.info)

/-- 10_state.md R20, R45 (the spec's decision D21; log 11 for the format): what `dbg_read` gives for each field of the
record, and what `dbg_write` hands back. -/
def Obligations.DebugPortAnswersTheNamedField : Prop :=
  ∀ s : State,
    (∀ a : Addr, s.memRead a.toNat = .ok (dbgRead (.mem a) s)) ∧ (∀ x, dbgRead (.V x) s = s.readV x) ∧
    dbgRead .I s = s.I ∧ dbgRead .pc s = s.pc ∧ BitVec.toNat (dbgRead .SP s) = s.SP.val ∧
    (∀ k, dbgRead (.stack k) s = s.slot k) ∧ dbgRead .DT s = s.DT ∧ dbgRead .ST s = s.ST ∧
    (∀ c r, BitVec.toNat (dbgRead (.FB c r) s) = if s.pixel c r then 1 else 0) ∧
    BitVec.extractLsb' 16 3 (dbgRead .FAULT s) = s.FAULT.kind ∧
    BitVec.extractLsb' 0 16 (dbgRead .FAULT s) = s.FAULT.info ∧
    (∀ b (f : DbgField) (v : BitVec f.width) t, dbgWrite f v s = some t →
      transact (.dbgWrite f v) ⟨s, b⟩ = .next (⟨t, b⟩, .ok)) ∧
    (∀ b (f : DbgField) (v : BitVec f.width), dbgWrite f v s = none →
      transact (.dbgWrite f v) ⟨s, b⟩ = .next (⟨s, b⟩, .notWritten))
end

