-- ==== Sys2Proof/Laws/Framebuffer.lean ====
section
/-! SUPPORT. The framebuffer: a read after a write, and the cleared grid. -/

namespace Sys2Proof.Machine

theorem Framebuffer.pixel_setPixel (fb : Framebuffer) (x c : Column) (y r : Row) (b : Bool) :
    (fb.setPixel x y b).pixel c r = if c = x ∧ r = y then b else fb.pixel c r := by
  simp only [Framebuffer.pixel, Framebuffer.setPixel, Vector.get_eq_getElem, Vector.getElem_set]
  by_cases hx : c = x
  · subst hx
    by_cases hy : r = y
    · subst hy; simp
    · have : ¬ y.val = r.val := fun h => hy (Fin.ext h.symm)
      simp [hy, this]
  · have : ¬ x.val = c.val := fun h => hx (Fin.ext h.symm)
    simp [hx, this]

@[simp] theorem Framebuffer.pixel_clear (c : Column) (r : Row) : Framebuffer.clear.pixel c r = false := by
  simp [Framebuffer.pixel, Framebuffer.clear, Vector.get_eq_getElem]

/-- Two framebuffers with the same pixels are equal. -/
theorem Framebuffer.ext_pixel {a b : Framebuffer} (h : ∀ c r, a.pixel c r = b.pixel c r) : a = b := by
  apply Vector.ext
  intro i hi
  apply Vector.ext
  intro j hj
  simpa [Framebuffer.pixel, Vector.get_eq_getElem] using h ⟨i, hi⟩ ⟨j, hj⟩

end Sys2Proof.Machine
end

