-- ==== Sys2Proof/Laws/Memory.lean ====
section
/-! SUPPORT. Memory: a read after a write, and the canonical form that every operation keeps. -/

namespace Sys2Proof.Machine

theorem Memory.find_insert (m : Memory) (a k : Nat) (b : Byte) :
    (m.insert a b).find k = if k = a then some b else m.find k := by
  induction m with
  | nil => simp [Memory.insert, Memory.find, eq_comm]
  | cons e m ih =>
    obtain ⟨q, v⟩ := e
    simp only [Memory.insert]
    split
    · rename_i h; simp only [Memory.find]; by_cases hk : k = a
      · simp [hk]
      · have : ¬ a = k := fun h => hk h.symm
        simp [hk, this]
    · split
      · rename_i h; subst h; by_cases hk : k = a
        · simp [Memory.find, hk]
        · have : ¬ a = k := fun h => hk h.symm
          simp [Memory.find, hk, this]
      · rename_i h₁ h₂
        simp only [Memory.find, ih]
        by_cases hq : q = k
        · have : ¬ k = a := by omega
          simp [hq, this]
        · simp [hq]

/-- Addresses below the bound of a canonical list are not listed. -/
theorem Memory.find_of_lt {c : Config} {m : Memory} {lo k : Nat} (h : Memory.wfFrom c lo m = true) (hk : k < lo) :
    m.find k = none := by
  induction m generalizing lo with
  | nil => rfl
  | cons e m ih =>
    obtain ⟨q, v⟩ := e
    simp only [Memory.wfFrom, Bool.and_eq_true, decide_eq_true_eq] at h
    have hq : ¬ q = k := by omega
    simp only [Memory.find, hq, if_false]
    exact ih h.2 (by omega)

theorem Memory.find_erase {c : Config} {m : Memory} {lo : Nat} (h : Memory.wfFrom c lo m = true) (a k : Nat) :
    (m.erase a).find k = if k = a then none else m.find k := by
  induction m generalizing lo with
  | nil => simp [Memory.erase, Memory.find]
  | cons e m ih =>
    obtain ⟨q, v⟩ := e
    simp only [Memory.wfFrom, Bool.and_eq_true, decide_eq_true_eq] at h
    simp only [Memory.erase]
    split
    · rename_i hq; subst hq
      by_cases hk : k = q
      · subst hk; simpa using Memory.find_of_lt h.2 (Nat.lt_succ_self k)
      · have : ¬ q = k := fun h => hk h.symm
        simp [hk, Memory.find, this]
    · rename_i hq
      simp only [Memory.find, ih h.2]
      by_cases hk : q = k
      · have : ¬ k = a := by omega
        simp [hk, this]
      · simp [hk]

/-- The one law of reads and writes: the written byte at its address, every other byte as before. -/
theorem Memory.read_write {c : Config} {m : Memory} (h : m.wf c = true) (a k : Nat) (b : Byte) :
    (m.write c a b).read c k = if k = a then b else m.read c k := by
  unfold Memory.write Memory.read
  split
  · rename_i hb
    rw [Memory.find_erase (lo := 0) h]
    by_cases hk : k = a
    · simp [hk, hb]
    · simp [hk]
  · rw [Memory.find_insert]
    by_cases hk : k = a <;> simp [hk]

theorem Memory.wfFrom_mono {c : Config} {m : Memory} {lo lo' : Nat} (h : Memory.wfFrom c lo m = true) (hl : lo' ≤ lo) :
    Memory.wfFrom c lo' m = true := by
  cases m with
  | nil => rfl
  | cons e m =>
    obtain ⟨q, v⟩ := e
    simp only [Memory.wfFrom, Bool.and_eq_true, decide_eq_true_eq] at h ⊢
    exact ⟨⟨⟨by omega, h.1.1.2⟩, h.1.2⟩, h.2⟩

theorem Memory.wfFrom_insert {c : Config} {m : Memory} {lo a : Nat} {b : Byte} (h : Memory.wfFrom c lo m = true)
    (hl : lo ≤ a) (ha : a < memSize) (hb : b ≠ c.resetByte a) : Memory.wfFrom c lo (m.insert a b) = true := by
  induction m generalizing lo with
  | nil => simp [Memory.insert, Memory.wfFrom, hl, ha, hb]
  | cons e m ih =>
    obtain ⟨q, v⟩ := e
    simp only [Memory.wfFrom, Bool.and_eq_true, decide_eq_true_eq] at h
    simp only [Memory.insert]
    split
    · rename_i hq
      simp only [Memory.wfFrom, Bool.and_eq_true, decide_eq_true_eq]
      exact ⟨⟨⟨hl, ha⟩, hb⟩, ⟨⟨by omega, h.1.1.2⟩, h.1.2⟩, h.2⟩
    · split
      · rename_i hq; subst hq
        simp only [Memory.wfFrom, Bool.and_eq_true, decide_eq_true_eq]
        exact ⟨⟨⟨hl, ha⟩, hb⟩, h.2⟩
      · simp only [Memory.wfFrom, Bool.and_eq_true, decide_eq_true_eq]
        exact ⟨h.1, ih h.2 (by omega)⟩

theorem Memory.wfFrom_erase {c : Config} {m : Memory} {lo : Nat} (h : Memory.wfFrom c lo m = true) (a : Nat) :
    Memory.wfFrom c lo (m.erase a) = true := by
  induction m generalizing lo with
  | nil => rfl
  | cons e m ih =>
    obtain ⟨q, v⟩ := e
    simp only [Memory.wfFrom, Bool.and_eq_true, decide_eq_true_eq] at h
    simp only [Memory.erase]
    split
    · exact Memory.wfFrom_mono h.2 (by omega)
    · simp only [Memory.wfFrom, Bool.and_eq_true, decide_eq_true_eq]
      exact ⟨h.1, ih h.2⟩

/-- A write inside the address space keeps the canonical form. -/
theorem Memory.wf_write {c : Config} {m : Memory} {a : Nat} {b : Byte} (h : m.wf c = true) (ha : a < memSize) :
    (m.write c a b).wf c = true := by
  unfold Memory.write
  split
  · exact Memory.wfFrom_erase h a
  · exact Memory.wfFrom_insert h (Nat.zero_le a) ha ‹_›

theorem Memory.wf_nil (c : Config) : Memory.wf c [] = true := rfl

/-- Reset memory lists nothing, so it reads as the reset contents. -/
@[simp] theorem Memory.read_nil (c : Config) (a : Nat) : Memory.read c [] a = c.resetByte a := rfl

/-- Two canonical lists that list the same bytes are equal. -/
theorem Memory.ext_find {c : Config} {m m' : Memory} {lo : Nat} (h : Memory.wfFrom c lo m = true)
    (h' : Memory.wfFrom c lo m' = true) (hf : ∀ k, m.find k = m'.find k) : m = m' := by
  induction m generalizing m' lo with
  | nil =>
    cases m' with
    | nil => rfl
    | cons e m' => obtain ⟨q, v⟩ := e; simpa [Memory.find] using hf q
  | cons e m ih =>
    obtain ⟨q, v⟩ := e
    cases m' with
    | nil => simpa [Memory.find] using hf q
    | cons e' m' =>
      obtain ⟨q', v'⟩ := e'
      simp only [Memory.wfFrom, Bool.and_eq_true, decide_eq_true_eq] at h h'
      have hq : q = q' := by
        rcases Nat.lt_trichotomy q q' with hlt | heq | hlt
        · have := hf q
          have hn : ¬ q' = q := by omega
          simp [Memory.find, hn, Memory.find_of_lt h'.2 (show q < q' + 1 by omega)] at this
        · exact heq
        · have := hf q'
          have hn : ¬ q = q' := by omega
          simp [Memory.find, hn, Memory.find_of_lt h.2 (show q' < q + 1 by omega)] at this
      subst hq
      have hv : v = v' := by simpa [Memory.find] using hf q
      subst hv
      have : m = m' := ih h.2 h'.2 fun k => by
        by_cases hk : q = k
        · subst hk
          rw [Memory.find_of_lt h.2 (Nat.lt_succ_self q), Memory.find_of_lt h'.2 (Nat.lt_succ_self q)]
        · simpa [Memory.find, hk] using hf k
      rw [this]

end Sys2Proof.Machine
end

