-- ==== Sys2Proof/Laws/State.lean ====
section
/-! SUPPORT. One lemma per field and per observer of every update of State, so that no later proof unfolds a record
update. -/

namespace Sys2Proof.Machine

/-! ### `State.setV` -/

@[simp] theorem State.setV_mem (s : State) (x : Nibble) (b : Byte) : (s.setV x b).mem = s.mem := rfl
@[simp] theorem State.setV_I (s : State) (x : Nibble) (b : Byte) : (s.setV x b).I = s.I := rfl
@[simp] theorem State.setV_pc (s : State) (x : Nibble) (b : Byte) : (s.setV x b).pc = s.pc := rfl
@[simp] theorem State.setV_SP (s : State) (x : Nibble) (b : Byte) : (s.setV x b).SP = s.SP := rfl
@[simp] theorem State.setV_stack (s : State) (x : Nibble) (b : Byte) : (s.setV x b).stack = s.stack := rfl
@[simp] theorem State.setV_DT (s : State) (x : Nibble) (b : Byte) : (s.setV x b).DT = s.DT := rfl
@[simp] theorem State.setV_ST (s : State) (x : Nibble) (b : Byte) : (s.setV x b).ST = s.ST := rfl
@[simp] theorem State.setV_FB (s : State) (x : Nibble) (b : Byte) : (s.setV x b).FB = s.FB := rfl
@[simp] theorem State.setV_FAULT (s : State) (x : Nibble) (b : Byte) : (s.setV x b).FAULT = s.FAULT := rfl
@[simp] theorem State.setV_cfg (s : State) (x : Nibble) (b : Byte) : (s.setV x b).cfg = s.cfg := rfl
@[simp] theorem State.setV_draws (s : State) (x : Nibble) (b : Byte) : (s.setV x b).draws = s.draws := rfl
@[simp] theorem State.setV_drawCount (s : State) (x : Nibble) (b : Byte) : (s.setV x b).drawCount = s.drawCount := rfl
@[simp] theorem State.setV_byteAt (s : State) (x : Nibble) (b : Byte) (a : Nat) : (s.setV x b).byteAt a = s.byteAt a := rfl
@[simp] theorem State.setV_pixel (s : State) (x : Nibble) (b : Byte) (c : Column) (r : Row) : (s.setV x b).pixel c r = s.pixel c r := rfl
@[simp] theorem State.setV_memRead (s : State) (x : Nibble) (b : Byte) (a : Nat) : (s.setV x b).memRead a = s.memRead a := rfl

/-! ### `State.setVF` -/

@[simp] theorem State.setVF_mem (s : State) (b : Byte) : (s.setVF b).mem = s.mem := rfl
@[simp] theorem State.setVF_I (s : State) (b : Byte) : (s.setVF b).I = s.I := rfl
@[simp] theorem State.setVF_pc (s : State) (b : Byte) : (s.setVF b).pc = s.pc := rfl
@[simp] theorem State.setVF_SP (s : State) (b : Byte) : (s.setVF b).SP = s.SP := rfl
@[simp] theorem State.setVF_stack (s : State) (b : Byte) : (s.setVF b).stack = s.stack := rfl
@[simp] theorem State.setVF_DT (s : State) (b : Byte) : (s.setVF b).DT = s.DT := rfl
@[simp] theorem State.setVF_ST (s : State) (b : Byte) : (s.setVF b).ST = s.ST := rfl
@[simp] theorem State.setVF_FB (s : State) (b : Byte) : (s.setVF b).FB = s.FB := rfl
@[simp] theorem State.setVF_FAULT (s : State) (b : Byte) : (s.setVF b).FAULT = s.FAULT := rfl
@[simp] theorem State.setVF_cfg (s : State) (b : Byte) : (s.setVF b).cfg = s.cfg := rfl
@[simp] theorem State.setVF_draws (s : State) (b : Byte) : (s.setVF b).draws = s.draws := rfl
@[simp] theorem State.setVF_drawCount (s : State) (b : Byte) : (s.setVF b).drawCount = s.drawCount := rfl
@[simp] theorem State.setVF_byteAt (s : State) (b : Byte) (a : Nat) : (s.setVF b).byteAt a = s.byteAt a := rfl
@[simp] theorem State.setVF_pixel (s : State) (b : Byte) (c : Column) (r : Row) : (s.setVF b).pixel c r = s.pixel c r := rfl
@[simp] theorem State.setVF_memRead (s : State) (b : Byte) (a : Nat) : (s.setVF b).memRead a = s.memRead a := rfl

/-! ### `State.setI` -/

@[simp] theorem State.setI_mem (s : State) (a' : Addr) : (s.setI a').mem = s.mem := rfl
@[simp] theorem State.setI_V (s : State) (a' : Addr) : (s.setI a').V = s.V := rfl
@[simp] theorem State.setI_I (s : State) (a' : Addr) : (s.setI a').I = a' := rfl
@[simp] theorem State.setI_pc (s : State) (a' : Addr) : (s.setI a').pc = s.pc := rfl
@[simp] theorem State.setI_SP (s : State) (a' : Addr) : (s.setI a').SP = s.SP := rfl
@[simp] theorem State.setI_stack (s : State) (a' : Addr) : (s.setI a').stack = s.stack := rfl
@[simp] theorem State.setI_DT (s : State) (a' : Addr) : (s.setI a').DT = s.DT := rfl
@[simp] theorem State.setI_ST (s : State) (a' : Addr) : (s.setI a').ST = s.ST := rfl
@[simp] theorem State.setI_FB (s : State) (a' : Addr) : (s.setI a').FB = s.FB := rfl
@[simp] theorem State.setI_FAULT (s : State) (a' : Addr) : (s.setI a').FAULT = s.FAULT := rfl
@[simp] theorem State.setI_cfg (s : State) (a' : Addr) : (s.setI a').cfg = s.cfg := rfl
@[simp] theorem State.setI_draws (s : State) (a' : Addr) : (s.setI a').draws = s.draws := rfl
@[simp] theorem State.setI_drawCount (s : State) (a' : Addr) : (s.setI a').drawCount = s.drawCount := rfl
@[simp] theorem State.setI_readV (s : State) (a' : Addr) (j : Nibble) : (s.setI a').readV j = s.readV j := rfl
@[simp] theorem State.setI_byteAt (s : State) (a' : Addr) (a : Nat) : (s.setI a').byteAt a = s.byteAt a := rfl
@[simp] theorem State.setI_pixel (s : State) (a' : Addr) (c : Column) (r : Row) : (s.setI a').pixel c r = s.pixel c r := rfl
@[simp] theorem State.setI_memRead (s : State) (a' : Addr) (a : Nat) : (s.setI a').memRead a = s.memRead a := rfl

/-! ### `State.setPc` -/

@[simp] theorem State.setPc_mem (s : State) (p : Word) : (s.setPc p).mem = s.mem := rfl
@[simp] theorem State.setPc_V (s : State) (p : Word) : (s.setPc p).V = s.V := rfl
@[simp] theorem State.setPc_I (s : State) (p : Word) : (s.setPc p).I = s.I := rfl
@[simp] theorem State.setPc_pc (s : State) (p : Word) : (s.setPc p).pc = p := rfl
@[simp] theorem State.setPc_SP (s : State) (p : Word) : (s.setPc p).SP = s.SP := rfl
@[simp] theorem State.setPc_stack (s : State) (p : Word) : (s.setPc p).stack = s.stack := rfl
@[simp] theorem State.setPc_DT (s : State) (p : Word) : (s.setPc p).DT = s.DT := rfl
@[simp] theorem State.setPc_ST (s : State) (p : Word) : (s.setPc p).ST = s.ST := rfl
@[simp] theorem State.setPc_FB (s : State) (p : Word) : (s.setPc p).FB = s.FB := rfl
@[simp] theorem State.setPc_FAULT (s : State) (p : Word) : (s.setPc p).FAULT = s.FAULT := rfl
@[simp] theorem State.setPc_cfg (s : State) (p : Word) : (s.setPc p).cfg = s.cfg := rfl
@[simp] theorem State.setPc_draws (s : State) (p : Word) : (s.setPc p).draws = s.draws := rfl
@[simp] theorem State.setPc_drawCount (s : State) (p : Word) : (s.setPc p).drawCount = s.drawCount := rfl
@[simp] theorem State.setPc_readV (s : State) (p : Word) (j : Nibble) : (s.setPc p).readV j = s.readV j := rfl
@[simp] theorem State.setPc_byteAt (s : State) (p : Word) (a : Nat) : (s.setPc p).byteAt a = s.byteAt a := rfl
@[simp] theorem State.setPc_pixel (s : State) (p : Word) (c : Column) (r : Row) : (s.setPc p).pixel c r = s.pixel c r := rfl
@[simp] theorem State.setPc_memRead (s : State) (p : Word) (a : Nat) : (s.setPc p).memRead a = s.memRead a := rfl

/-! ### `State.advance` -/

@[simp] theorem State.advance_mem (s : State) : (s.advance).mem = s.mem := rfl
@[simp] theorem State.advance_V (s : State) : (s.advance).V = s.V := rfl
@[simp] theorem State.advance_I (s : State) : (s.advance).I = s.I := rfl
@[simp] theorem State.advance_pc (s : State) : (s.advance).pc = s.pc + 2 := rfl
@[simp] theorem State.advance_SP (s : State) : (s.advance).SP = s.SP := rfl
@[simp] theorem State.advance_stack (s : State) : (s.advance).stack = s.stack := rfl
@[simp] theorem State.advance_DT (s : State) : (s.advance).DT = s.DT := rfl
@[simp] theorem State.advance_ST (s : State) : (s.advance).ST = s.ST := rfl
@[simp] theorem State.advance_FB (s : State) : (s.advance).FB = s.FB := rfl
@[simp] theorem State.advance_FAULT (s : State) : (s.advance).FAULT = s.FAULT := rfl
@[simp] theorem State.advance_cfg (s : State) : (s.advance).cfg = s.cfg := rfl
@[simp] theorem State.advance_draws (s : State) : (s.advance).draws = s.draws := rfl
@[simp] theorem State.advance_drawCount (s : State) : (s.advance).drawCount = s.drawCount := rfl
@[simp] theorem State.advance_readV (s : State) (j : Nibble) : (s.advance).readV j = s.readV j := rfl
@[simp] theorem State.advance_byteAt (s : State) (a : Nat) : (s.advance).byteAt a = s.byteAt a := rfl
@[simp] theorem State.advance_pixel (s : State) (c : Column) (r : Row) : (s.advance).pixel c r = s.pixel c r := rfl
@[simp] theorem State.advance_memRead (s : State) (a : Nat) : (s.advance).memRead a = s.memRead a := rfl

/-! ### `State.skipIf` -/

@[simp] theorem State.skipIf_mem (s : State) (q : Bool) : (s.skipIf q).mem = s.mem := by cases q <;> rfl
@[simp] theorem State.skipIf_V (s : State) (q : Bool) : (s.skipIf q).V = s.V := by cases q <;> rfl
@[simp] theorem State.skipIf_I (s : State) (q : Bool) : (s.skipIf q).I = s.I := by cases q <;> rfl
@[simp] theorem State.skipIf_SP (s : State) (q : Bool) : (s.skipIf q).SP = s.SP := by cases q <;> rfl
@[simp] theorem State.skipIf_stack (s : State) (q : Bool) : (s.skipIf q).stack = s.stack := by cases q <;> rfl
@[simp] theorem State.skipIf_DT (s : State) (q : Bool) : (s.skipIf q).DT = s.DT := by cases q <;> rfl
@[simp] theorem State.skipIf_ST (s : State) (q : Bool) : (s.skipIf q).ST = s.ST := by cases q <;> rfl
@[simp] theorem State.skipIf_FB (s : State) (q : Bool) : (s.skipIf q).FB = s.FB := by cases q <;> rfl
@[simp] theorem State.skipIf_FAULT (s : State) (q : Bool) : (s.skipIf q).FAULT = s.FAULT := by cases q <;> rfl
@[simp] theorem State.skipIf_cfg (s : State) (q : Bool) : (s.skipIf q).cfg = s.cfg := by cases q <;> rfl
@[simp] theorem State.skipIf_draws (s : State) (q : Bool) : (s.skipIf q).draws = s.draws := by cases q <;> rfl
@[simp] theorem State.skipIf_drawCount (s : State) (q : Bool) : (s.skipIf q).drawCount = s.drawCount := by cases q <;> rfl
@[simp] theorem State.skipIf_readV (s : State) (q : Bool) (j : Nibble) : (s.skipIf q).readV j = s.readV j := by cases q <;> rfl
@[simp] theorem State.skipIf_byteAt (s : State) (q : Bool) (a : Nat) : (s.skipIf q).byteAt a = s.byteAt a := by cases q <;> rfl
@[simp] theorem State.skipIf_pixel (s : State) (q : Bool) (c : Column) (r : Row) : (s.skipIf q).pixel c r = s.pixel c r := by cases q <;> rfl
@[simp] theorem State.skipIf_memRead (s : State) (q : Bool) (a : Nat) : (s.skipIf q).memRead a = s.memRead a := by cases q <;> rfl

/-! ### `State.setFB` -/

@[simp] theorem State.setFB_mem (s : State) (fb : Framebuffer) : (s.setFB fb).mem = s.mem := rfl
@[simp] theorem State.setFB_V (s : State) (fb : Framebuffer) : (s.setFB fb).V = s.V := rfl
@[simp] theorem State.setFB_I (s : State) (fb : Framebuffer) : (s.setFB fb).I = s.I := rfl
@[simp] theorem State.setFB_pc (s : State) (fb : Framebuffer) : (s.setFB fb).pc = s.pc := rfl
@[simp] theorem State.setFB_SP (s : State) (fb : Framebuffer) : (s.setFB fb).SP = s.SP := rfl
@[simp] theorem State.setFB_stack (s : State) (fb : Framebuffer) : (s.setFB fb).stack = s.stack := rfl
@[simp] theorem State.setFB_DT (s : State) (fb : Framebuffer) : (s.setFB fb).DT = s.DT := rfl
@[simp] theorem State.setFB_ST (s : State) (fb : Framebuffer) : (s.setFB fb).ST = s.ST := rfl
@[simp] theorem State.setFB_FB (s : State) (fb : Framebuffer) : (s.setFB fb).FB = fb := rfl
@[simp] theorem State.setFB_FAULT (s : State) (fb : Framebuffer) : (s.setFB fb).FAULT = s.FAULT := rfl
@[simp] theorem State.setFB_cfg (s : State) (fb : Framebuffer) : (s.setFB fb).cfg = s.cfg := rfl
@[simp] theorem State.setFB_draws (s : State) (fb : Framebuffer) : (s.setFB fb).draws = s.draws := rfl
@[simp] theorem State.setFB_drawCount (s : State) (fb : Framebuffer) : (s.setFB fb).drawCount = s.drawCount := rfl
@[simp] theorem State.setFB_readV (s : State) (fb : Framebuffer) (j : Nibble) : (s.setFB fb).readV j = s.readV j := rfl
@[simp] theorem State.setFB_byteAt (s : State) (fb : Framebuffer) (a : Nat) : (s.setFB fb).byteAt a = s.byteAt a := rfl
@[simp] theorem State.setFB_memRead (s : State) (fb : Framebuffer) (a : Nat) : (s.setFB fb).memRead a = s.memRead a := rfl

/-! ### `State.raise` -/

@[simp] theorem State.raise_mem (s : State) (e : Trap) : (s.raise e).mem = s.mem := rfl
@[simp] theorem State.raise_V (s : State) (e : Trap) : (s.raise e).V = s.V := rfl
@[simp] theorem State.raise_I (s : State) (e : Trap) : (s.raise e).I = s.I := rfl
@[simp] theorem State.raise_pc (s : State) (e : Trap) : (s.raise e).pc = s.pc := rfl
@[simp] theorem State.raise_SP (s : State) (e : Trap) : (s.raise e).SP = s.SP := rfl
@[simp] theorem State.raise_stack (s : State) (e : Trap) : (s.raise e).stack = s.stack := rfl
@[simp] theorem State.raise_DT (s : State) (e : Trap) : (s.raise e).DT = s.DT := rfl
@[simp] theorem State.raise_ST (s : State) (e : Trap) : (s.raise e).ST = s.ST := rfl
@[simp] theorem State.raise_FB (s : State) (e : Trap) : (s.raise e).FB = s.FB := rfl
@[simp] theorem State.raise_FAULT (s : State) (e : Trap) : (s.raise e).FAULT = e.status := rfl
@[simp] theorem State.raise_cfg (s : State) (e : Trap) : (s.raise e).cfg = s.cfg := rfl
@[simp] theorem State.raise_draws (s : State) (e : Trap) : (s.raise e).draws = s.draws := rfl
@[simp] theorem State.raise_drawCount (s : State) (e : Trap) : (s.raise e).drawCount = s.drawCount := rfl
@[simp] theorem State.raise_readV (s : State) (e : Trap) (j : Nibble) : (s.raise e).readV j = s.readV j := rfl
@[simp] theorem State.raise_byteAt (s : State) (e : Trap) (a : Nat) : (s.raise e).byteAt a = s.byteAt a := rfl
@[simp] theorem State.raise_pixel (s : State) (e : Trap) (c : Column) (r : Row) : (s.raise e).pixel c r = s.pixel c r := rfl
@[simp] theorem State.raise_memRead (s : State) (e : Trap) (a : Nat) : (s.raise e).memRead a = s.memRead a := rfl

/-! ### `State.tickTimers` -/

@[simp] theorem State.tickTimers_mem (s : State) : (s.tickTimers).mem = s.mem := rfl
@[simp] theorem State.tickTimers_V (s : State) : (s.tickTimers).V = s.V := rfl
@[simp] theorem State.tickTimers_I (s : State) : (s.tickTimers).I = s.I := rfl
@[simp] theorem State.tickTimers_pc (s : State) : (s.tickTimers).pc = s.pc := rfl
@[simp] theorem State.tickTimers_SP (s : State) : (s.tickTimers).SP = s.SP := rfl
@[simp] theorem State.tickTimers_stack (s : State) : (s.tickTimers).stack = s.stack := rfl
@[simp] theorem State.tickTimers_DT (s : State) : (s.tickTimers).DT = countDown s.DT := rfl
@[simp] theorem State.tickTimers_ST (s : State) : (s.tickTimers).ST = countDown s.ST := rfl
@[simp] theorem State.tickTimers_FB (s : State) : (s.tickTimers).FB = s.FB := rfl
@[simp] theorem State.tickTimers_FAULT (s : State) : (s.tickTimers).FAULT = s.FAULT := rfl
@[simp] theorem State.tickTimers_cfg (s : State) : (s.tickTimers).cfg = s.cfg := rfl
@[simp] theorem State.tickTimers_draws (s : State) : (s.tickTimers).draws = s.draws := rfl
@[simp] theorem State.tickTimers_drawCount (s : State) : (s.tickTimers).drawCount = s.drawCount := rfl
@[simp] theorem State.tickTimers_readV (s : State) (j : Nibble) : (s.tickTimers).readV j = s.readV j := rfl
@[simp] theorem State.tickTimers_byteAt (s : State) (a : Nat) : (s.tickTimers).byteAt a = s.byteAt a := rfl
@[simp] theorem State.tickTimers_pixel (s : State) (c : Column) (r : Row) : (s.tickTimers).pixel c r = s.pixel c r := rfl
@[simp] theorem State.tickTimers_memRead (s : State) (a : Nat) : (s.tickTimers).memRead a = s.memRead a := rfl

/-! ### `State.consumeDraw` -/

@[simp] theorem State.consumeDraw_mem (s : State) : (s.consumeDraw).mem = s.mem := by unfold State.consumeDraw; split <;> rfl
@[simp] theorem State.consumeDraw_V (s : State) : (s.consumeDraw).V = s.V := by unfold State.consumeDraw; split <;> rfl
@[simp] theorem State.consumeDraw_I (s : State) : (s.consumeDraw).I = s.I := by unfold State.consumeDraw; split <;> rfl
@[simp] theorem State.consumeDraw_pc (s : State) : (s.consumeDraw).pc = s.pc := by unfold State.consumeDraw; split <;> rfl
@[simp] theorem State.consumeDraw_SP (s : State) : (s.consumeDraw).SP = s.SP := by unfold State.consumeDraw; split <;> rfl
@[simp] theorem State.consumeDraw_stack (s : State) : (s.consumeDraw).stack = s.stack := by unfold State.consumeDraw; split <;> rfl
@[simp] theorem State.consumeDraw_DT (s : State) : (s.consumeDraw).DT = s.DT := by unfold State.consumeDraw; split <;> rfl
@[simp] theorem State.consumeDraw_ST (s : State) : (s.consumeDraw).ST = s.ST := by unfold State.consumeDraw; split <;> rfl
@[simp] theorem State.consumeDraw_FB (s : State) : (s.consumeDraw).FB = s.FB := by unfold State.consumeDraw; split <;> rfl
@[simp] theorem State.consumeDraw_FAULT (s : State) : (s.consumeDraw).FAULT = s.FAULT := by unfold State.consumeDraw; split <;> rfl
@[simp] theorem State.consumeDraw_cfg (s : State) : (s.consumeDraw).cfg = s.cfg := by unfold State.consumeDraw; split <;> rfl
@[simp] theorem State.consumeDraw_readV (s : State) (j : Nibble) : (s.consumeDraw).readV j = s.readV j := by unfold State.consumeDraw; split <;> rfl
@[simp] theorem State.consumeDraw_byteAt (s : State) (a : Nat) : (s.consumeDraw).byteAt a = s.byteAt a := by unfold State.consumeDraw; split <;> rfl
@[simp] theorem State.consumeDraw_pixel (s : State) (c : Column) (r : Row) : (s.consumeDraw).pixel c r = s.pixel c r := by unfold State.consumeDraw; split <;> rfl
@[simp] theorem State.consumeDraw_memRead (s : State) (a : Nat) : (s.consumeDraw).memRead a = s.memRead a := by unfold State.consumeDraw; split <;> rfl

/-! ### The written part of the updates that write one register or the skip -/

theorem State.readV_setV (s : State) (x j : Nibble) (b : Byte) :
    (s.setV x b).readV j = if j = x then b else s.readV j := by
  have key : (x.toNat = j.toNat) ↔ j = x := by
    rw [← BitVec.toNat_inj]; exact eq_comm
  simp only [State.readV, State.setV, Vector.get_eq_getElem, Vector.getElem_set]
  by_cases h : j = x
  · subst h; simp
  · have : ¬ x.toNat = j.toNat := fun e => h (key.mp e)
    simp [h, this]

@[simp] theorem State.readV_setV_self (s : State) (x : Nibble) (b : Byte) : (s.setV x b).readV x = b := by
  simp [State.readV_setV]

theorem State.readV_setV_of_ne (s : State) {x j : Nibble} (b : Byte) (h : j ≠ x) :
    (s.setV x b).readV j = s.readV j := by
  simp [State.readV_setV, h]

theorem State.readV_setVF (s : State) (j : Nibble) (b : Byte) :
    (s.setVF b).readV j = if j = regF then b else s.readV j := State.readV_setV s regF j b

@[simp] theorem State.skipIf_pc (s : State) (q : Bool) :
    (s.skipIf q).pc = if q then s.pc + 2 else s.pc := by cases q <;> rfl

/-- Two states with the same memory and configuration read the same bytes. -/
theorem State.memRead_congr {s t : State} (hm : t.mem = s.mem) (hc : t.cfg = s.cfg) (a : Nat) :
    t.memRead a = s.memRead a := by
  simp [State.memRead, State.byteAt, hm, hc]

end Sys2Proof.Machine
end

