-- ==== Sys2Proof/Laws/Ops.lean ====
section
/-! SUPPORT. What each shared operation can do, said once. -/

namespace Sys2Proof.Machine

/-! ### Memory accesses -/

theorem State.memRead_ok {s : State} {a : Nat} (h : a < 4096) : s.memRead a = .ok (s.byteAt a) := by
  have : ¬ a ≥ memSize := by unfold memSize; omega
  simp [State.memRead, this]

theorem State.memRead_error {s : State} {a : Nat} (h : 4096 ≤ a) :
    s.memRead a = .error ⟨.outOfBoundsAccess, BitVec.ofNat 16 a⟩ := by
  have : a ≥ memSize := by unfold memSize; omega
  simp [State.memRead, this]

theorem State.memWrite_ok {s : State} {a : Nat} (b : Byte) (h : a < 4096) :
    s.memWrite a b = .ok { s with mem := s.mem.write s.cfg a b } := by
  have : ¬ a ≥ memSize := by unfold memSize; omega
  simp [State.memWrite, this]

theorem State.memWrite_error {s : State} {a : Nat} (b : Byte) (h : 4096 ≤ a) :
    s.memWrite a b = .error ⟨.outOfBoundsAccess, BitVec.ofNat 16 a⟩ := by
  have : a ≥ memSize := by unfold memSize; omega
  simp [State.memWrite, this]

/-- A range read inside memory gives its bytes in order. -/
theorem State.memReadMany_ok {s : State} {a n : Nat} (h : a + n ≤ 4096) :
    s.memReadMany a n = .ok ((List.range' a n).map s.byteAt) := by
  induction n generalizing a with
  | zero => rfl
  | succ n ih =>
    simp [State.memReadMany, State.memRead_ok (s := s) (show a < 4096 by omega), ih (show a + 1 + n ≤ 4096 by omega),
      List.range'_succ]

/-- A range read that leaves memory fails at the smallest address outside it. -/
theorem State.memReadMany_error {s : State} {a n : Nat} (ha : a ≤ 4096) (h : 4096 < a + n) :
    s.memReadMany a n = .error ⟨.outOfBoundsAccess, 0x1000⟩ := by
  induction n generalizing a with
  | zero => omega
  | succ n ih =>
    rcases Nat.lt_or_ge a 4096 with hlt | hge
    · simp [State.memReadMany, State.memRead_ok (s := s) hlt, ih (show a + 1 ≤ 4096 by omega) (show 4096 < a + 1 + n by omega)]
    · have : a = 4096 := by omega
      subst this
      simp [State.memReadMany, State.memRead_error (s := s) (Nat.le_refl 4096)]

theorem State.fetchWord_ok {s : State} (h : s.pc.toNat ≤ 0xFFE) :
    s.fetchWord = .ok (wordOfBytes (s.byteAt s.pc.toNat) (s.byteAt (s.pc.toNat + 1))) := by
  simp [State.fetchWord, State.memRead_ok (s := s) (show s.pc.toNat < 4096 by omega),
    State.memRead_ok (s := s) (show s.pc.toNat + 1 < 4096 by omega)]

theorem State.fetchWord_error_at_last {s : State} (h : s.pc.toNat = 0xFFF) :
    s.fetchWord = .error ⟨.outOfBoundsAccess, 0x1000⟩ := by
  simp [State.fetchWord, h, State.memRead_ok (s := s) (show 4095 < 4096 by omega),
    State.memRead_error (s := s) (Nat.le_refl 4096)]

theorem State.fetchWord_error_above {s : State} (h : 0x1000 ≤ s.pc.toNat) :
    s.fetchWord = .error ⟨.outOfBoundsAccess, s.pc⟩ := by
  simp [State.fetchWord, State.memRead_error (s := s) h]

/-! ### Stack -/

theorem State.push_ok {s : State} {A v : Word} (h : s.SP.val < 16) :
    s.push A v = .ok { s with SP := ⟨s.SP.val + 1, by omega⟩, stack := s.stack.set s.SP.val v h } := by
  simp [State.push, h]

theorem State.push_full {s : State} {A v : Word} (h : s.SP.val = 16) : s.push A v = .error ⟨.stackOverflow, A⟩ := by
  simp [State.push, h]

theorem State.pop_ok {s : State} {A : Word} (h : s.SP.val ≠ 0) :
    s.pop A = .ok (s.stack.get ⟨s.SP.val - 1, by omega⟩, { s with SP := ⟨s.SP.val - 1, by omega⟩ }) := by
  simp [State.pop, h]

theorem State.pop_empty {s : State} {A : Word} (h : s.SP.val = 0) : s.pop A = .error ⟨.stackUnderflow, A⟩ := by
  simp [State.pop, h]

/-! ### Ending an instruction -/

@[simp] theorem commit_ok (s w : State) : commit s (.ok w) = .next w := rfl
@[simp] theorem commit_error (s : State) (e : Trap) : commit s (.error e) = .next (s.raise e) := rfl

/-- An instruction always ends in a next state: its working copy, or the state before it with the error latched. -/
theorem commit_next (s : State) (r : Except Trap State) :
    (∃ w, r = .ok w ∧ commit s r = .next w) ∨ (∃ e, r = .error e ∧ commit s r = .next (s.raise e)) := by
  cases r with
  | ok w => exact .inl ⟨w, rfl, rfl⟩
  | error e => exact .inr ⟨e, rfl, rfl⟩

theorem ErrorKind.code_ne_zero (k : ErrorKind) : k.code ≠ 0 := by cases k <;> decide
theorem ErrorKind.code_le_six (k : ErrorKind) : k.code.toNat ≤ 6 := by cases k <;> decide

@[simp] theorem State.raise_latched (s : State) (e : Trap) : (s.raise e).latched = true := by
  have h : e.kind.code ≠ 0 := ErrorKind.code_ne_zero e.kind
  simpa [State.latched, Trap.status] using h

@[simp] theorem finishTick_next (t : State) : finishTick (.next t) = .next t.endTick.consumeDraw := rfl

theorem State.endTick_of_latched {t : State} (h : t.latched = true) : t.endTick = t := by
  simp [State.endTick, h]

theorem State.endTick_of_not_latched {t : State} (h : t.latched = false) : t.endTick = t.tickTimers := by
  simp [State.endTick, h]

/-! ### Framebuffer drawing -/

theorem Canvas.plot_pixel (k : Canvas) (x c : Column) (y r : Row) :
    (k.plot x y).fb.pixel c r = if c = x ∧ r = y then !k.fb.pixel x y else k.fb.pixel c r :=
  Framebuffer.pixel_setPixel _ _ _ _ _ _

@[simp] theorem Canvas.plot_collision (k : Canvas) (x : Column) (y : Row) :
    (k.plot x y).collision = (k.collision || k.fb.pixel x y) := rfl

@[simp] theorem Canvas.drawSprite_nil (k : Canvas) (x0 y0 : Nat) : k.drawSprite x0 y0 [] = k := rfl

theorem Canvas.drawSprite_cons (k : Canvas) (x0 y0 : Nat) (b : Byte) (bs : List Byte) :
    k.drawSprite x0 y0 (b :: bs) = (k.drawByte x0 (Fin.ofNat 32 y0) b).drawSprite x0 (y0 + 1) bs := rfl

end Sys2Proof.Machine
end

