-- ==== Sys2Proof/Laws/Draw.lean ====
section
/-! SUPPORT. What drawing one sprite byte and a whole sprite does to every pixel and to the collision bit (43_display.md
R161 to R163). No pixel is visited twice: 8 columns of 64, at most 32 rows. -/

namespace Sys2Proof.Machine

/-- What the first `m` bits of a sprite byte do: the columns they fall on are flipped, and the collision bit is set exactly
when it was or some pixel went from true to false. -/
theorem Canvas.drawBits_spec (k : Canvas) (x0 : Nat) (y : Row) (b : Byte) (m : Nat) (hm : m ≤ 8) :
    let k' := (List.range m).foldl (fun k c => if b.getLsbD (7 - c) then k.plot (Fin.ofNat 64 (x0 + c)) y else k) k
    (∀ c r, k'.fb.pixel c r = if (r = y ∧ ∃ dc, dc < m ∧ c.val = (x0+dc) % 64 ∧ b.getLsbD (7-dc) = true) then !k.fb.pixel c r else k.fb.pixel c r) ∧
    (k'.collision = true ↔ k.collision = true ∨ ∃ c r, k.fb.pixel c r = true ∧ k'.fb.pixel c r = false) := by
  induction m with
  | zero => simp
  | succ m ih =>
    obtain ⟨ih1, ih2⟩ := ih (by omega)
    simp only [List.range_succ, List.foldl_append, List.foldl_cons, List.foldl_nil]
    set k1 := (List.range m).foldl (fun k c => if b.getLsbD (7 - c) then k.plot (Fin.ofNat 64 (x0 + c)) y else k) k with hk1
    by_cases hb : b.getLsbD (7 - m) = true
    · simp only [hb, if_true]
      have hfresh : k1.fb.pixel (Fin.ofNat 64 (x0+m)) y = k.fb.pixel (Fin.ofNat 64 (x0+m)) y := by
        rw [ih1, if_neg]; rintro ⟨-, dc, h1, h2, -⟩; simp [Fin.ofNat] at h2; omega
      have hp : ∀ c r, (k1.plot (Fin.ofNat 64 (x0+m)) y).fb.pixel c r = if (r = y ∧ ∃ dc, dc < m+1 ∧ c.val = (x0+dc) % 64 ∧ b.getLsbD (7-dc) = true) then !k.fb.pixel c r else k.fb.pixel c r := by
        intro c r
        rw [Canvas.plot_pixel]
        by_cases hcr : c = Fin.ofNat 64 (x0+m) ∧ r = y
        · rw [if_pos hcr, hfresh, if_pos, hcr.1, hcr.2]
          exact ⟨hcr.2, m, by omega, by rw [hcr.1]; rfl, hb⟩
        · rw [if_neg hcr, ih1]
          congr 1
          apply propext
          constructor
          · rintro ⟨h1, dc, h2, h3⟩; exact ⟨h1, dc, by omega, h3⟩
          · rintro ⟨h1, dc, h2, h3, h4⟩
            refine ⟨h1, dc, ?_, h3, h4⟩
            rcases Nat.lt_or_ge dc m with h | h
            · exact h
            · have : dc = m := by omega
              subst this; exact absurd ⟨Fin.ext h3, h1⟩ hcr
      refine ⟨hp, ?_⟩
      rw [Canvas.plot_collision, Bool.or_eq_true, ih2, hfresh]
      constructor
      · rintro ((h | ⟨c, r, h1, h2⟩) | h)
        · exact .inl h
        · refine .inr ⟨c, r, h1, ?_⟩
          rw [Canvas.plot_pixel, if_neg]; · exact h2
          rintro ⟨rfl, rfl⟩; rw [hfresh, h1] at h2; cases h2
        · refine .inr ⟨_, _, h, ?_⟩
          rw [Canvas.plot_pixel, if_pos ⟨rfl, rfl⟩, hfresh, h]; rfl
      · rintro (h | ⟨c, r, h1, h2⟩)
        · exact .inl (.inl h)
        · by_cases hcr : c = Fin.ofNat 64 (x0+m) ∧ r = y
          · right; rw [← hcr.1, ← hcr.2]; exact h1
          · rw [Canvas.plot_pixel, if_neg hcr] at h2; exact .inl (.inr ⟨c, r, h1, h2⟩)
    · simp only [hb]
      refine ⟨?_, ih2⟩
      intro c r; simp only [Bool.false_eq_true, if_false]; rw [ih1]
      congr 1; apply propext
      constructor
      · rintro ⟨h1, dc, h2, h3⟩; exact ⟨h1, dc, by omega, h3⟩
      · rintro ⟨h1, dc, h2, h3, h4⟩
        refine ⟨h1, dc, ?_, h3, h4⟩
        rcases Nat.lt_or_ge dc m with h | h
        · exact h
        · have : dc = m := by omega
          subst this; exact absurd h4 hb

open Classical in
/-- What drawing sprite rows does: every pixel a set bit falls on is flipped, every other pixel stays, and the collision
bit is set exactly when it was or some pixel went from true to false. The rows may not overlap: at most 32. -/
theorem Canvas.drawSprite_spec (bs : List Byte) (k : Canvas) (x0 y0 : Nat) (hn : bs.length ≤ 32) :
    let k' := k.drawSprite x0 y0 bs
    (∀ c r, k'.fb.pixel c r = if (∃ dc dr b, dc < 8 ∧ bs[dr]? = some b ∧ c.val = (x0+dc)%64 ∧ r.val = (y0+dr)%32 ∧ b.getLsbD (7-dc) = true) then !k.fb.pixel c r else k.fb.pixel c r) ∧
    (k'.collision = true ↔ k.collision = true ∨ ∃ c r, k.fb.pixel c r = true ∧ k'.fb.pixel c r = false) := by
  induction bs generalizing k y0 with
  | nil => simp
  | cons b bs ih =>
    simp only [List.length_cons] at hn
    obtain ⟨i1, i2⟩ := ih (k.drawByte x0 (Fin.ofNat 32 y0) b) (y0+1) (by omega)
    obtain ⟨j1, j2⟩ := Canvas.drawBits_spec k x0 (Fin.ofNat 32 y0) b 8 (Nat.le_refl _)
    rw [Canvas.drawSprite_cons]
    change (∀ c r, (k.drawByte x0 (Fin.ofNat 32 y0) b).fb.pixel c r = _) at j1
    change ((k.drawByte x0 (Fin.ofNat 32 y0) b).collision = true ↔ _ ∨ ∃ (c : Column) (r : Row), _ ∧ (k.drawByte x0 (Fin.ofNat 32 y0) b).fb.pixel c r = false) at j2
    set k1 := k.drawByte x0 (Fin.ofNat 32 y0) b
    set k2 := k1.drawSprite x0 (y0+1) bs
    have A : ∀ (c : Column) (r : Row), (r = Fin.ofNat 32 y0) → ¬ (∃ dc dr b, dc < 8 ∧ bs[dr]? = some b ∧ c.val = (x0+dc)%64 ∧ r.val = (y0+1+dr)%32 ∧ b.getLsbD (7-dc) = true) := by
      rintro c r hr ⟨dc, dr, b', h1, h2, h3, h4, h5⟩
      have : dr < bs.length := by
        by_contra h; rw [List.getElem?_eq_none (by omega)] at h2; cases h2
      rw [hr] at h4; simp [Fin.ofNat] at h4; omega
    have P : ∀ (c : Column) (r : Row), (∃ dc dr b', dc < 8 ∧ (b::bs)[dr]? = some b' ∧ c.val = (x0+dc)%64 ∧ r.val = (y0+dr)%32 ∧ b'.getLsbD (7-dc) = true) ↔
       (r = Fin.ofNat 32 y0 ∧ ∃ dc, dc < 8 ∧ c.val = (x0+dc) % 64 ∧ b.getLsbD (7-dc) = true) ∨ (∃ dc dr b, dc < 8 ∧ bs[dr]? = some b ∧ c.val = (x0+dc)%64 ∧ r.val = (y0+1+dr)%32 ∧ b.getLsbD (7-dc) = true) := by
      intro c r
      constructor
      · rintro ⟨dc, dr, b', h1, h2, h3, h4, h5⟩
        cases dr with
        | zero => left; simp at h2; subst h2; exact ⟨Fin.ext (by simpa [Fin.ofNat] using h4), dc, h1, h3, h5⟩
        | succ dr => right; simp at h2; exact ⟨dc, dr, b', h1, h2, h3, by rw [h4]; congr 1; omega, h5⟩
      · rintro (⟨h, dc, h1, h2, h3⟩ | ⟨dc, dr, b', h1, h2, h3, h4, h5⟩)
        · exact ⟨dc, 0, b, h1, rfl, h2, by rw [h]; simp [Fin.ofNat], h3⟩
        · exact ⟨dc, dr+1, b', h1, by simpa using h2, h3, by rw [h4]; congr 1; omega, h5⟩
    have pix : ∀ c r, k2.fb.pixel c r = if (∃ dc dr b', dc < 8 ∧ (b::bs)[dr]? = some b' ∧ c.val = (x0+dc)%64 ∧ r.val = (y0+dr)%32 ∧ b'.getLsbD (7-dc) = true) then !k.fb.pixel c r else k.fb.pixel c r := by
      intro c r
      rw [i1, j1]
      by_cases hr : r = Fin.ofNat 32 y0
      · rw [if_neg (A c r hr)]
        congr 1; apply propext; rw [P]
        exact ⟨fun h => .inl h, fun h => h.resolve_right (A c r hr)⟩
      · have hn1 : ¬ (r = Fin.ofNat 32 y0 ∧ ∃ dc, dc < 8 ∧ c.val = (x0+dc) % 64 ∧ b.getLsbD (7-dc) = true) := fun h => hr h.1
        rw [if_neg hn1]
        congr 1; apply propext; rw [P]
        exact ⟨fun h => .inr h, fun h => h.resolve_left hn1⟩
    refine ⟨pix, ?_⟩
    rw [i2, j2]
    constructor
    · rintro ((h | ⟨c, r, h1, h2⟩) | ⟨c, r, h1, h2⟩)
      · exact .inl h
      · refine .inr ⟨c, r, h1, ?_⟩
        rw [i1, if_neg]; · exact h2
        apply A; by_contra hr
        rw [j1, if_neg (fun h => hr h.1), h1] at h2; cases h2
      · refine .inr ⟨c, r, ?_, h2⟩
        by_cases h : r = Fin.ofNat 32 y0
        · rw [i1, if_neg (A c r h), h1] at h2; cases h2
        · rw [j1, if_neg (fun h' => h h'.1)] at h1; exact h1
    · rintro (h | ⟨c, r, h1, h2⟩)
      · exact .inl (.inl h)
      · by_cases h3 : k1.fb.pixel c r = true
        · exact .inr ⟨c, r, h3, h2⟩
        · exact .inl (.inr ⟨c, r, h1, by simpa using h3⟩)

end Sys2Proof.Machine
end

