-- ==== Sys2Proof/Laws/Encoding.lean ====
section
/-! SUPPORT. Fields of words: what a field of a concatenation is, and what a masked equality says about the fields. -/

namespace Sys2Proof

/-- A word is the concatenation of its four nibbles. -/
theorem word_eq_nibbles (w : Word) :
    w = w.extractLsb' 12 4 ++ w.extractLsb' 8 4 ++ w.extractLsb' 4 4 ++ w.extractLsb' 0 4 := by
  apply BitVec.eq_of_getLsbD_eq
  intro i hi
  simp only [BitVec.getLsbD_append, BitVec.getLsbD_extractLsb']
  interval_cases i <;> simp

/-! The fields of the three layouts of R81. -/

theorem fields_xyn (f x y n : Nibble) :
    (f ++ x ++ y ++ n : Word).extractLsb' 12 4 = f ∧ (f ++ x ++ y ++ n : Word).extractLsb' 8 4 = x ∧
    (f ++ x ++ y ++ n : Word).extractLsb' 4 4 = y ∧ (f ++ x ++ y ++ n : Word).extractLsb' 0 4 = n := by
  refine ⟨?_, ?_, ?_, ?_⟩ <;> apply BitVec.eq_of_getLsbD_eq <;> intro i hi <;>
    simp only [BitVec.getLsbD_extractLsb', BitVec.getLsbD_append] <;> interval_cases i <;> simp

theorem fields_xnn (f x : Nibble) (nn : Byte) :
    (f ++ x ++ nn : Word).extractLsb' 12 4 = f ∧ (f ++ x ++ nn : Word).extractLsb' 8 4 = x ∧
    (f ++ x ++ nn : Word).extractLsb' 0 8 = nn := by
  refine ⟨?_, ?_, ?_⟩ <;> apply BitVec.eq_of_getLsbD_eq <;> intro i hi <;>
    simp only [BitVec.getLsbD_extractLsb', BitVec.getLsbD_append] <;> interval_cases i <;> simp

theorem fields_nnn (f : Nibble) (nnn : Addr) :
    (f ++ nnn : Word).extractLsb' 12 4 = f ∧ (f ++ nnn : Word).extractLsb' 0 12 = nnn := by
  refine ⟨?_, ?_⟩ <;> apply BitVec.eq_of_getLsbD_eq <;> intro i hi <;>
    simp only [BitVec.getLsbD_extractLsb', BitVec.getLsbD_append] <;> interval_cases i <;> simp

/-! What the masks of R90 leave of the three layouts. -/

theorem mask_nnn (f : Nibble) (nnn : Addr) : (f ++ nnn : Word) &&& 0xF000 = f ++ 0#12 := by
  apply BitVec.eq_of_getLsbD_eq
  intro i hi
  simp only [BitVec.getLsbD_and, BitVec.getLsbD_append]
  interval_cases i <;> simp

theorem mask_xnn (f x : Nibble) (nn : Byte) : (f ++ x ++ nn : Word) &&& 0xF000 = f ++ 0#12 := by
  apply BitVec.eq_of_getLsbD_eq
  intro i hi
  simp only [BitVec.getLsbD_and, BitVec.getLsbD_append]
  interval_cases i <;> simp

theorem mask_xyn (f x y n : Nibble) : (f ++ x ++ y ++ n : Word) &&& 0xF000 = f ++ 0#12 := by
  apply BitVec.eq_of_getLsbD_eq
  intro i hi
  simp only [BitVec.getLsbD_and, BitVec.getLsbD_append]
  interval_cases i <;> simp

theorem mask_xyn_sub (f x y n : Nibble) : (f ++ x ++ y ++ n : Word) &&& 0xF00F = f ++ 0#8 ++ n := by
  apply BitVec.eq_of_getLsbD_eq
  intro i hi
  simp only [BitVec.getLsbD_and, BitVec.getLsbD_append]
  interval_cases i <;> simp

theorem mask_xnn_sub (f x : Nibble) (nn : Byte) : (f ++ x ++ nn : Word) &&& 0xF0FF = f ++ 0#4 ++ nn := by
  apply BitVec.eq_of_getLsbD_eq
  intro i hi
  simp only [BitVec.getLsbD_and, BitVec.getLsbD_append]
  interval_cases i <;> simp

/-! What `w &&& mask = pattern` says (R90). -/

theorem family_of_mask {w p : Word} (h : w &&& 0xF000 = p) : w.extractLsb' 12 4 = p.extractLsb' 12 4 := by
  subst h; rw [BitVec.extractLsb'_and]
  have : (0xF000 : Word).extractLsb' 12 4 = BitVec.allOnes 4 := by decide
  rw [this, BitVec.and_allOnes]

theorem fields_of_mask_nn {w p : Word} (h : w &&& 0xF0FF = p) :
    w.extractLsb' 12 4 = p.extractLsb' 12 4 ∧ w.extractLsb' 0 8 = p.extractLsb' 0 8 := by
  subst h; rw [BitVec.extractLsb'_and, BitVec.extractLsb'_and]
  have h₁ : (0xF0FF : Word).extractLsb' 12 4 = BitVec.allOnes 4 := by decide
  have h₂ : (0xF0FF : Word).extractLsb' 0 8 = BitVec.allOnes 8 := by decide
  rw [h₁, h₂, BitVec.and_allOnes, BitVec.and_allOnes]; exact ⟨rfl, rfl⟩

theorem fields_of_mask_n {w p : Word} (h : w &&& 0xF00F = p) :
    w.extractLsb' 12 4 = p.extractLsb' 12 4 ∧ w.extractLsb' 0 4 = p.extractLsb' 0 4 := by
  subst h; rw [BitVec.extractLsb'_and, BitVec.extractLsb'_and]
  have h₁ : (0xF00F : Word).extractLsb' 12 4 = BitVec.allOnes 4 := by decide
  have h₂ : (0xF00F : Word).extractLsb' 0 4 = BitVec.allOnes 4 := by decide
  rw [h₁, h₂, BitVec.and_allOnes, BitVec.and_allOnes]; exact ⟨rfl, rfl⟩

/-! The bytes of a word. -/

theorem wordOfBytes_bytes (w : Word) : wordOfBytes (highByte w) (lowByte w) = w := by
  apply BitVec.eq_of_getLsbD_eq
  intro i hi
  simp only [wordOfBytes, highByte, lowByte, BitVec.getLsbD_append, BitVec.getLsbD_extractLsb']
  by_cases h : i < 8
  · simp [h]
  · have : i - 8 < 8 := by omega
    have h' : 8 + (i - 8) = i := by omega
    simp [h, this, h']

end Sys2Proof
end

