-- ==== Sys2Proof/Laws/Exec.lean ====
section
/-! SUPPORT. What an instruction and a step can do, said once. -/

namespace Sys2Proof.Machine

/-- The parts of the state that no committed instruction changes. -/
def KeptByCommit (s w : State) : Prop :=
  w.mem = s.mem ∧ w.DT = s.DT ∧ w.ST = s.ST ∧ w.FAULT = s.FAULT ∧ w.cfg = s.cfg ∧ w.draws = s.draws ∧
    w.drawCount = s.drawCount

theorem State.push_keeps {s w : State} {A v : Word} (h : s.push A v = .ok w) : KeptByCommit s w := by
  unfold State.push at h
  split at h
  · cases h; exact ⟨rfl, rfl, rfl, rfl, rfl, rfl, rfl⟩
  · cases h

theorem State.pop_keeps {s w : State} {A v : Word} (h : s.pop A = .ok (v, w)) : KeptByCommit s w := by
  unfold State.pop at h
  split at h
  · cases h
  · cases h; exact ⟨rfl, rfl, rfl, rfl, rfl, rfl, rfl⟩

/-- The errors a tick can raise on `s`: never RomTooLarge, and NotImplemented only under its flag. -/
def RaisedByTick (s : State) (e : Trap) : Prop :=
  e.kind ≠ .romTooLarge ∧ (e.kind = .notImplemented → s.cfg.drawReferenceFault = true)

theorem RaisedByTick.of_kind {s : State} {e : Trap} (h : e.kind ≠ .romTooLarge) (h' : e.kind ≠ .notImplemented) :
    RaisedByTick s e := ⟨h, fun h'' => absurd h'' h'⟩

theorem State.push_error_kind {s : State} {A v : Word} {e : Trap} (h : s.push A v = .error e) :
    e.kind = .stackOverflow := by
  unfold State.push at h; split at h <;> cases h; rfl

theorem State.pop_error_kind {s : State} {A : Word} {e : Trap} (h : s.pop A = .error e) : e.kind = .stackUnderflow := by
  unfold State.pop at h; split at h <;> cases h; rfl

theorem State.memRead_error_kind {s : State} {a : Nat} {e : Trap} (h : s.memRead a = .error e) :
    e.kind = .outOfBoundsAccess := by
  unfold State.memRead at h; split at h <;> cases h; rfl

theorem State.memReadMany_error_kind {s : State} {a n : Nat} {e : Trap} (h : s.memReadMany a n = .error e) :
    e.kind = .outOfBoundsAccess := by
  induction n generalizing a with
  | zero => cases h
  | succ n ih =>
    simp only [State.memReadMany] at h
    split at h
    · cases h; exact State.memRead_error_kind ‹_›
    · split at h
      · cases h; exact ih ‹_›
      · cases h

theorem State.fetchWord_error_kind {s : State} {e : Trap} (h : s.fetchWord = .error e) : e.kind = .outOfBoundsAccess := by
  unfold State.fetchWord at h
  split at h
  · cases h; exact State.memRead_error_kind ‹_›
  · split at h
    · cases h; exact State.memRead_error_kind ‹_›
    · cases h

/-- Every instruction commits a state that keeps those parts, or raises an error on the state before it. -/
theorem exec_cases (i : Instr) (s : State) :
    (∃ w, exec i s = .next w ∧ KeptByCommit s w) ∨
    (∃ e, exec i s = .next (s.raise e) ∧ RaisedByTick s e) := by
  cases i with
  | ret x =>
    simp only [exec, execRet]
    cases h : s.advance.pop s.pc with
    | error e => exact .inr ⟨e, rfl, .of_kind (by simp [State.pop_error_kind h]) (by simp [State.pop_error_kind h])⟩
    | ok r => exact .inl ⟨_, rfl, by simpa [KeptByCommit] using State.pop_keeps h⟩
  | call nnn =>
    simp only [exec, execCall]
    cases h : s.advance.push s.pc s.advance.pc with
    | error e => exact .inr ⟨e, rfl, .of_kind (by simp [State.push_error_kind h]) (by simp [State.push_error_kind h])⟩
    | ok w => exact .inl ⟨_, rfl, by simpa [KeptByCommit] using State.push_keeps h⟩
  | drw x y n =>
    simp only [exec, execDrw]
    split
    · rename_i hc
      exact .inr ⟨_, rfl, by simp, fun _ => hc⟩
    · cases h : s.spriteRows n with
      | error e =>
        have := State.memReadMany_error_kind h
        exact .inr ⟨e, rfl, .of_kind (by simp [this]) (by simp [this])⟩
      | ok rows => exact .inl ⟨_, rfl, by simp [KeptByCommit]⟩
  | subn x y =>
    simp only [exec, execSubn]
    cases s.cfg.subnFlagOrder <;> exact .inl ⟨_, rfl, by simp [KeptByCommit]⟩
  | _ =>
    simp only [exec, execCls, execJp, execSeImm, execSneImm, execSeReg, execLdImm, execAddImm, execLdReg, execOrReg,
      execAndReg, execXorReg, execAddReg, execSub, execShr, execShl, execLdI, execJpV0, execRnd, commit_ok]
    exact .inl ⟨_, rfl, by simp [KeptByCommit]⟩

/-- The cases of a step: an error is latched already; the tick raises; or the instruction at `pc` commits. -/
theorem step_cases (s : State) :
    (s.latched = true ∧ step s = .next s) ∨
    (s.latched = false ∧ ∃ e, step s = .next (s.raise e).consumeDraw ∧ RaisedByTick s e) ∨
    (s.latched = false ∧ ∃ w i t, s.fetchWord = .ok w ∧ decode w = .ok i ∧ exec i s = .next t ∧ KeptByCommit s t ∧
      step s = .next t.tickTimers.consumeDraw) := by
  unfold step runTick
  cases hl : s.latched with
  | true => exact .inl ⟨rfl, rfl⟩
  | false =>
    refine .inr ?_
    cases hf : s.fetchWord with
    | error e =>
      have := State.fetchWord_error_kind hf
      exact .inl ⟨rfl, e, by simp [State.endTick_of_latched], .of_kind (by simp [this]) (by simp [this])⟩
    | ok w =>
      cases hd : decode w with
      | error e =>
        exact .inl ⟨rfl, ⟨.unsupportedInstruction, w⟩, by simp [runWord, hd, State.endTick_of_latched],
          .of_kind (by simp) (by simp)⟩
      | ok i =>
        rcases exec_cases i s with ⟨t, ht, hk⟩ | ⟨e, he, hr⟩
        · have hu : t.latched = false := by
            have := hk.2.2.2.1
            simpa [State.latched, this] using hl
          exact .inr ⟨rfl, w, i, t, rfl, hd, ht, hk, by simp [runWord, hd, ht, State.endTick_of_not_latched hu]⟩
        · exact .inl ⟨rfl, e, by simp [runWord, hd, he, State.endTick_of_latched], hr⟩

/-- A run of the machine takes one step and goes on from the state it answers. -/
theorem core_run_succ {s t : State} (n : Nat) (h : step s = .next t) :
    Host.Core.run core (n + 1) s = Host.Core.run core n t := by
  have h' : core.step s = .next t := h
  simp only [Host.Core.run, h']

theorem step_of_latched {s : State} (h : s.latched = true) : step s = .next s := by
  simp [step, runTick, h]

end Sys2Proof.Machine
end

