-- ==== Sys2Proof/Laws/PerInstr.lean ====
section
/-! SUPPORT. The family RowOfEncoding of LAWS.json: the word of every instruction stands in the instruction's row of
the opcode map (30_encoding.md R90). -/

namespace Sys2Proof.Laws.RowOfEncoding

def Statement (i : Instr) : Prop :=
  (opcodeRow i).matchesWord (encode i) = true ∧ opcodeRow i ∈ opcodeMap

theorem of_mask {i : Instr} (h : encode i &&& (opcodeRow i).mask = (opcodeRow i).pattern)
    (hm : opcodeRow i ∈ opcodeMap) : Statement i :=
  ⟨beq_iff_eq.mpr h, hm⟩

theorem cls (x : Nibble) : Statement (.cls x) :=
  of_mask ((mask_xnn_sub 0 x 0xE0).trans rfl) (by simp [opcodeRow, opcodeMap])

theorem ret (x : Nibble) : Statement (.ret x) :=
  of_mask ((mask_xnn_sub 0 x 0xEE).trans rfl) (by simp [opcodeRow, opcodeMap])

theorem jp (a : Addr) : Statement (.jp a) :=
  of_mask ((mask_nnn 1 a).trans rfl) (by simp [opcodeRow, opcodeMap])

theorem call (a : Addr) : Statement (.call a) :=
  of_mask ((mask_nnn 2 a).trans rfl) (by simp [opcodeRow, opcodeMap])

theorem seImm (x : Nibble) (nn : Byte) : Statement (.seImm x nn) :=
  of_mask ((mask_xnn 3 x nn).trans rfl) (by simp [opcodeRow, opcodeMap])

theorem sneImm (x : Nibble) (nn : Byte) : Statement (.sneImm x nn) :=
  of_mask ((mask_xnn 4 x nn).trans rfl) (by simp [opcodeRow, opcodeMap])

theorem seReg (x : Nibble) (y : Nibble) (n : Nibble) : Statement (.seReg x y n) :=
  of_mask ((mask_xyn 5 x y n).trans rfl) (by simp [opcodeRow, opcodeMap])

theorem ldImm (x : Nibble) (nn : Byte) : Statement (.ldImm x nn) :=
  of_mask ((mask_xnn 6 x nn).trans rfl) (by simp [opcodeRow, opcodeMap])

theorem addImm (x : Nibble) (nn : Byte) : Statement (.addImm x nn) :=
  of_mask ((mask_xnn 7 x nn).trans rfl) (by simp [opcodeRow, opcodeMap])

theorem ldReg (x : Nibble) (y : Nibble) : Statement (.ldReg x y) :=
  of_mask ((mask_xyn_sub 8 x y 0).trans rfl) (by simp [opcodeRow, opcodeMap])

theorem orReg (x : Nibble) (y : Nibble) : Statement (.orReg x y) :=
  of_mask ((mask_xyn_sub 8 x y 1).trans rfl) (by simp [opcodeRow, opcodeMap])

theorem andReg (x : Nibble) (y : Nibble) : Statement (.andReg x y) :=
  of_mask ((mask_xyn_sub 8 x y 2).trans rfl) (by simp [opcodeRow, opcodeMap])

theorem xorReg (x : Nibble) (y : Nibble) : Statement (.xorReg x y) :=
  of_mask ((mask_xyn_sub 8 x y 3).trans rfl) (by simp [opcodeRow, opcodeMap])

theorem addReg (x : Nibble) (y : Nibble) : Statement (.addReg x y) :=
  of_mask ((mask_xyn_sub 8 x y 4).trans rfl) (by simp [opcodeRow, opcodeMap])

theorem sub (x : Nibble) (y : Nibble) : Statement (.sub x y) :=
  of_mask ((mask_xyn_sub 8 x y 5).trans rfl) (by simp [opcodeRow, opcodeMap])

theorem shr (x : Nibble) (y : Nibble) : Statement (.shr x y) :=
  of_mask ((mask_xyn_sub 8 x y 6).trans rfl) (by simp [opcodeRow, opcodeMap])

theorem subn (x : Nibble) (y : Nibble) : Statement (.subn x y) :=
  of_mask ((mask_xyn_sub 8 x y 7).trans rfl) (by simp [opcodeRow, opcodeMap])

theorem shl (x : Nibble) (y : Nibble) : Statement (.shl x y) :=
  of_mask ((mask_xyn_sub 8 x y 14).trans rfl) (by simp [opcodeRow, opcodeMap])

theorem ldI (a : Addr) : Statement (.ldI a) :=
  of_mask ((mask_nnn 10 a).trans rfl) (by simp [opcodeRow, opcodeMap])

theorem jpV0 (a : Addr) : Statement (.jpV0 a) :=
  of_mask ((mask_nnn 11 a).trans rfl) (by simp [opcodeRow, opcodeMap])

theorem rnd (x : Nibble) (nn : Byte) : Statement (.rnd x nn) :=
  of_mask ((mask_xnn 12 x nn).trans rfl) (by simp [opcodeRow, opcodeMap])

theorem drw (x : Nibble) (y : Nibble) (n : Nibble) : Statement (.drw x y n) :=
  of_mask ((mask_xyn 13 x y n).trans rfl) (by simp [opcodeRow, opcodeMap])

end Sys2Proof.Laws.RowOfEncoding
end

