-- ==== Sys2Proof/Laws/Ports.lean ====
section
/-! SUPPORT. The small lemmas of the ports: what a tick's reply is, and what a step does to the draw it was given. -/

namespace Sys2Proof.Machine

theorem State.latched_eq_false {t : State} : t.latched = false ↔ t.FAULT.kind = 0 := by simp [State.latched]

theorem State.tickReply_of_ok {t : State} (h : t.FAULT.kind = 0) : t.tickReply = .ok := by
  simp [State.tickReply, State.latched_eq_false.mpr h]

theorem State.tickReply_of_error {t : State} (h : t.FAULT.kind ≠ 0) :
    t.tickReply = .error t.FAULT.kind t.FAULT.info := by
  have hl : t.latched = true := by simpa [State.latched] using h
  simp [State.tickReply, hl]

/-- A supplied draw is used up and the free draws are not touched. -/
theorem State.consumeDraw_of_cons {t : State} {d : Byte} {ds : List Byte} (h : t.draws = d :: ds) :
    t.consumeDraw.draws = ds ∧ t.consumeDraw.drawCount = t.drawCount := by
  simp [State.consumeDraw, h]

/-- A step with no error latched takes the oldest supplied draw and no other. -/
theorem step_draws_of_cons {s t : State} {d : Byte} {ds : List Byte} (hk : s.FAULT.kind = 0) (hd : s.draws = d :: ds)
    (h : step s = .next t) : t.draws = ds ∧ t.drawCount = s.drawCount := by
  rcases step_cases s with ⟨hl, _⟩ | ⟨_, e, h', _⟩ | ⟨_, w, i, u, _, _, _, hkept, h'⟩
  · rw [State.latched_eq_false.mpr hk] at hl; cases hl
  · rw [h'] at h; cases h
    simpa using State.consumeDraw_of_cons (t := s.raise e) (by simpa using hd)
  · obtain ⟨_, _, _, _, _, hdraws, hcount⟩ := hkept
    rw [h'] at h; cases h
    have := State.consumeDraw_of_cons (t := u.tickTimers) (by simpa [hdraws] using hd)
    simpa [hcount] using this

end Sys2Proof.Machine
end

