-- ==== Sys2Proof/Tests/Slice0.lean ====
section
/-! SUPPORT. Tests of the model, with the vectors of spec/95_test_vectors.md, and a witness for the hypotheses of every
statement. Expected values are the spec's. -/

namespace Sys2Proof.Tests

open Sys2Proof Sys2Proof.Machine

/-! ### Helpers -/

/-- The state a step answers. -/
def after (s : State) : State :=
  match step s with
  | .next t => t
  | .fault _ => s
  | .refused _ => s

theorem step_after (s : State) : step s = .next (after s) := by
  unfold after
  rcases step_cases s with ⟨_, h⟩ | ⟨_, e, h, _⟩ | ⟨_, w, i, t, _, _, _, _, h⟩ <;> rw [h]

/-- The state an instruction answers. -/
def result (i : Instr) (s : State) : State :=
  match exec i s with
  | .next t => t
  | .fault _ => s
  | .refused _ => s

theorem exec_result (i : Instr) (s : State) : exec i s = .next (result i s) := by
  unfold result
  rcases exec_cases i s with ⟨w, h, _⟩ | ⟨e, h, _⟩ <;> rw [h]

/-- The reset state with a word at 0x200. -/
def atWord (w : Nat) : State := State.reset.withFetchWord 16 w

/-- V-D5's start: the byte 0x81 at 0x300, `I` = 0x300, V0 = 70, V1 = 33. -/
def drawStart : State :=
  ((({ State.reset with mem := State.reset.mem.write Config.standard 0x300 0x81 } : State).setI 0x300).setV 0 70).setV 1 33

/-! ### Well-formed terms: an ill-formed one for each check (30_encoding.md R97) -/

theorem test_ill_formed_terms_are_refused :
    (Instr.cls 1).wellFormed = false ∧ (Instr.ret 0xF).wellFormed = false ∧ (Instr.seReg 1 2 1).wellFormed = false ∧
    (Instr.shr 4 7).wellFormed = false ∧ (Instr.shl 4 1).wellFormed = false := by decide

theorem test_well_formed_term : (Instr.shr 4 0).wellFormed = true := by decide

/-! ### Decode and encode -/

/-- Every constructor's word, written out from R81 and R90, as the table numbers it. -/
theorem test_decode_every_row :
    decodeTableWord 16 0x00E0 = some (.cls 0) ∧
    decodeTableWord 16 0x0FEE = some (.ret 0xF) ∧
    decodeTableWord 16 0x1234 = some (.jp 0x234) ∧
    decodeTableWord 16 0x2300 = some (.call 0x300) ∧
    decodeTableWord 16 0x3342 = some (.seImm 3 0x42) ∧
    decodeTableWord 16 0x4342 = some (.sneImm 3 0x42) ∧
    decodeTableWord 16 0x5121 = some (.seReg 1 2 1) ∧
    decodeTableWord 16 0x6A7F = some (.ldImm 0xA 0x7F) ∧
    decodeTableWord 16 0x7220 = some (.addImm 2 0x20) ∧
    decodeTableWord 16 0x8120 = some (.ldReg 1 2) ∧
    decodeTableWord 16 0x8121 = some (.orReg 1 2) ∧
    decodeTableWord 16 0x8122 = some (.andReg 1 2) ∧
    decodeTableWord 16 0x8123 = some (.xorReg 1 2) ∧
    decodeTableWord 16 0x8124 = some (.addReg 1 2) ∧
    decodeTableWord 16 0x8125 = some (.sub 1 2) ∧
    decodeTableWord 16 0x8476 = some (.shr 4 7) ∧
    decodeTableWord 16 0x8127 = some (.subn 1 2) ∧
    decodeTableWord 16 0x840E = some (.shl 4 0) ∧
    decodeTableWord 16 0xA23C = some (.ldI 0x23C) ∧
    decodeTableWord 16 0xB300 = some (.jpV0 0x300) ∧
    decodeTableWord 16 0xC30F = some (.rnd 3 0x0F) ∧
    decodeTableWord 16 0xD015 = some (.drw 0 1 5) := by decide

/-- The encoder gives the same words. -/
theorem test_encode_every_row :
    encode (.cls 0) = 0x00E0 ∧ encode (.ret 0xF) = 0x0FEE ∧ encode (.jp 0x234) = 0x1234 ∧ encode (.call 0x300) = 0x2300 ∧ encode (.seImm 3 0x42) = 0x3342 ∧ encode (.sneImm 3 0x42) = 0x4342 ∧ encode (.seReg 1 2 1) = 0x5121 ∧ encode (.ldImm 0xA 0x7F) = 0x6A7F ∧ encode (.addImm 2 0x20) = 0x7220 ∧ encode (.ldReg 1 2) = 0x8120 ∧ encode (.orReg 1 2) = 0x8121 ∧ encode (.andReg 1 2) = 0x8122 ∧ encode (.xorReg 1 2) = 0x8123 ∧ encode (.addReg 1 2) = 0x8124 ∧ encode (.sub 1 2) = 0x8125 ∧ encode (.shr 4 7) = 0x8476 ∧ encode (.subn 1 2) = 0x8127 ∧ encode (.shl 4 0) = 0x840E ∧ encode (.ldI 0x23C) = 0xA23C ∧ encode (.jpV0 0x300) = 0xB300 ∧ encode (.rnd 3 0x0F) = 0xC30F ∧ encode (.drw 0 1 5) = 0xD015 := by decide

theorem test_decode_rejects_by_name :
    decode 0x9120 = .error (.noHandler 0x9120) ∧ decode 0xF00A = .error (.noHandler 0xF00A) ∧
    decode 0x0123 = .error (.noSubHandler 0x0123) ∧ decode 0x800F = .error (.noSubHandler 0x800F) ∧
    decodeBytes [0x12] = .error .truncated := by decide

/-- R95: the rows match 47392 words (each row 2 to the number of its mask's zero bits, the rows being disjoint). -/
theorem test_table_rows_47392_words :
    (opcodeMap.map fun r => 2 ^ ((List.range 16).filter fun i => !r.mask.getLsbD i).length).sum = 47392 := by decide

theorem test_rows_are_disjoint :
    opcodeMap.Pairwise fun r q => (r.pattern ^^^ q.pattern) &&& (r.mask &&& q.mask) ≠ 0 := by decide

theorem test_asm_text : asmText (.drw 0 0xF 5) = "DRW V0, VF, 5" ∧ asmText (.seImm 3 0x42) = "SE V3, 0x42" := by decide

/-! ### One tick on a small state -/

/-- V-U9, V-D10 -/
theorem test_cls_clears_and_ignores_x : (after (((atWord 0x01E0).setFB (Framebuffer.clear.setPixel 3 4 true)).setVF 7)).pixel 3 4 = false ∧ (after (((atWord 0x01E0).setFB (Framebuffer.clear.setPixel 3 4 true)).setVF 7)).readV 0xF = 7 ∧ (after (((atWord 0x01E0).setFB (Framebuffer.clear.setPixel 3 4 true)).setVF 7)).pc = 0x202 := by decide

/-- V-C8 -/
theorem test_ret_pops : (after ({ (atWord 0x00EE) with SP := 1, stack := State.reset.stack.set 0 0x204 } : State)).pc = 0x204 ∧ (after ({ (atWord 0x00EE) with SP := 1, stack := State.reset.stack.set 0 0x204 } : State)).SP = 0 ∧ (after ({ (atWord 0x00EE) with SP := 1, stack := State.reset.stack.set 0 0x204 } : State)).slot 0 = 0x204 := by decide

/-- V-C10, V-U10 -/
theorem test_ret_from_full_stack_ignores_x : (after ({ (atWord 0x0FEE) with SP := 16, stack := State.reset.stack.set 15 0x456 } : State)).pc = 0x456 ∧ (after ({ (atWord 0x0FEE) with SP := 16, stack := State.reset.stack.set 15 0x456 } : State)).SP = 15 := by decide

/-- V-C9 -/
theorem test_ret_underflow : (after (atWord 0x00EE)).FAULT = ⟨3, 0x200⟩ ∧ (after (atWord 0x00EE)).pc = 0x200 ∧ (after (atWord 0x00EE)).SP = 0 := by decide

/-- V-C1 -/
theorem test_jp : (after (atWord 0x1234)).pc = 0x234 := by decide

/-- V-C2 -/
theorem test_jp_itself : (after ({ (atWord 0x1200) with DT := 1 } : State)).pc = 0x200 ∧ (after ({ (atWord 0x1200) with DT := 1 } : State)).DT = 0 := by decide

/-- V-C5 -/
theorem test_call_last_slot : (after ({ (atWord 0x2300) with SP := 15 } : State)).slot 15 = 0x202 ∧ (after ({ (atWord 0x2300) with SP := 15 } : State)).SP = 16 ∧ (after ({ (atWord 0x2300) with SP := 15 } : State)).pc = 0x300 := by decide

/-- V-C6 -/
theorem test_call_overflow : (after ({ (atWord 0x2300) with SP := 16, DT := 3 } : State)).FAULT = ⟨2, 0x200⟩ ∧ (after ({ (atWord 0x2300) with SP := 16, DT := 3 } : State)).pc = 0x200 ∧ (after ({ (atWord 0x2300) with SP := 16, DT := 3 } : State)).SP = 16 ∧ (after ({ (atWord 0x2300) with SP := 16, DT := 3 } : State)).DT = 3 := by decide

/-- V-C12 -/
theorem test_se_imm_taken : (after ((atWord 0x3F01).setVF 1)).pc = 0x204 := by decide

/-- S7 -/
theorem test_se_imm_not_taken : (after ((atWord 0x3342).setV 3 0x41)).pc = 0x202 := by decide

/-- S7 -/
theorem test_sne_imm_taken : (after ((atWord 0x4342).setV 3 0x41)).pc = 0x204 := by decide

/-- S7 -/
theorem test_sne_imm_not_taken : (after ((atWord 0x4342).setV 3 0x42)).pc = 0x202 := by decide

/-- V-U11 -/
theorem test_se_reg_ignores_n : (after (((atWord 0x5121).setV 1 7).setV 2 7)).pc = 0x204 := by decide

/-- V-U12 -/
theorem test_se_reg_not_taken : (after (((atWord 0x512F).setV 1 7).setV 2 8)).pc = 0x202 := by decide

/-- V-C14 -/
theorem test_jp_v0 : (after ((atWord 0xB300).setV 0 0x10)).pc = 0x310 := by decide

/-- V-C15 -/
theorem test_jp_v0_keeps_13_bits : (after ((atWord 0xBFFF).setV 0 0xFF)).pc = 0x10FE := by decide

/-- V-L1 -/
theorem test_ld_imm : (after (atWord 0x6A7F)).readV 0xA = 0x7F ∧ (after (atWord 0x6A7F)).pc = 0x202 := by decide

/-- S1 -/
theorem test_ld_imm_vf : (after ((atWord 0x6F00).setVF 1)).readV 0xF = 0 := by decide

/-- V-L3 -/
theorem test_add_imm_wraps : (after ((atWord 0x7201).setV 2 0xFF)).readV 2 = 0 ∧ (after ((atWord 0x7201).setV 2 0xFF)).readV 0xF = 0 := by decide

/-- V-L4 -/
theorem test_add_imm_vf : (after ((atWord 0x7FFF).setVF 1)).readV 0xF = 0 := by decide

/-- V-L6, S6 -/
theorem test_ld_i : (after (atWord 0xA23C)).I = 0x23C := by decide

/-- V-L7 -/
theorem test_ld_i_top : (after (atWord 0xAFFF)).I = 0xFFF := by decide

/-- V-L8 -/
theorem test_rnd_masks : (after ({ (atWord 0xC30F) with draws := [0xB7, 0x11] } : State)).readV 3 = 0x07 ∧ (after ({ (atWord 0xC30F) with draws := [0xB7, 0x11] } : State)).draws = [0x11] := by decide

/-- V-L11 -/
theorem test_rnd_vf : (after ({ (atWord 0xCF80) with draws := [0xB7] } : State)).readV 0xF = 0x80 := by decide

/-- V-A1 -/
theorem test_ld_reg : (after ((atWord 0x8120).setV 2 0x5A)).readV 1 = 0x5A := by decide

/-- V-A2 -/
theorem test_or_leaves_vf : (after ((((atWord 0x8121).setV 1 0xF0).setV 2 0x0F).setVF 1)).readV 1 = 0xFF ∧ (after ((((atWord 0x8121).setV 1 0xF0).setV 2 0x0F).setVF 1)).readV 0xF = 1 := by decide

/-- V-A3 -/
theorem test_and : (after (((atWord 0x8122).setV 1 0xF0).setV 2 0x3C)).readV 1 = 0x30 := by decide

/-- V-A4 -/
theorem test_xor : (after (((atWord 0x8123).setV 1 0xF0).setV 2 0x3C)).readV 1 = 0xCC := by decide

/-- V-A9 -/
theorem test_add_reg_vf_destination : (after (((atWord 0x8F14).setVF 0xFF).setV 1 1)).readV 0xF = 1 := by decide

/-- V-A28 -/
theorem test_add_reg_vf_source : (after (((atWord 0x81F4).setV 1 0xFF).setVF 1)).readV 1 = 0 ∧ (after (((atWord 0x81F4).setV 1 0xFF).setVF 1)).readV 0xF = 1 := by decide

/-- V-A27 -/
theorem test_sub_vf_source : (after (((atWord 0x81F5).setV 1 1).setVF 2)).readV 1 = 0xFF ∧ (after (((atWord 0x81F5).setV 1 1).setVF 2)).readV 0xF = 0 := by decide

/-- V-A14 -/
theorem test_sub_vf_destination : (after (((atWord 0x8F15).setVF 5).setV 1 3)).readV 0xF = 2 := by decide

/-- V-U13 -/
theorem test_shr_ignores_y : (after (((atWord 0x8476).setV 4 5).setV 7 0xFF)).readV 4 = 2 ∧ (after (((atWord 0x8476).setV 4 5).setV 7 0xFF)).readV 0xF = 1 := by decide

/-- V-A18 -/
theorem test_shr_vf : (after ((atWord 0x8F06).setVF 5)).readV 0xF = 2 := by decide

/-- V-A22 -/
theorem test_subn_before : (after (((atWord 0x8F17).setVF 2).setV 1 5)).readV 0xF = 3 := by decide

/-- V-A23 -/
theorem test_subn_after : (after ({ (((atWord 0x8F17).setVF 2).setV 1 5) with cfg := { Config.standard with subnFlagOrder := .after } } : State)).readV 0xF = 1 := by decide

/-- V-A24 -/
theorem test_shl : (after ((atWord 0x840E).setV 4 0x81)).readV 4 = 2 ∧ (after ((atWord 0x840E).setV 4 0x81)).readV 0xF = 1 := by decide

/-- V-A26 -/
theorem test_shl_vf : (after ((atWord 0x8F0E).setVF 0x81)).readV 0xF = 2 := by decide

/-- V-D5: the sprite byte 0x81 at (70, 33) turns on (6, 1) and (13, 1) alone in its row. -/
theorem test_drw_wraps :
    (List.ofFn fun c : Column => (result (.drw 0 1 1) drawStart).pixel c 1).zipIdx.filterMap (fun p => if p.1 then some p.2 else none)
      = [6, 13] ∧ (result (.drw 0 1 1) drawStart).readV 0xF = 0 := by decide

/-- V-D11 -/
theorem test_drw_glyph_at_old_vf : (after ((atWord 0xDF15).setVF 3)).pixel 3 0 = true ∧ (after ((atWord 0xDF15).setVF 3)).pixel 6 0 = true ∧ (after ((atWord 0xDF15).setVF 3)).pixel 7 0 = false ∧ (after ((atWord 0xDF15).setVF 3)).pixel 4 1 = false ∧ (after ((atWord 0xDF15).setVF 3)).readV 0xF = 0 := by decide

/-- V-D7 -/
theorem test_drw_out_of_bounds : (after (((atWord 0xD013).setI 0xFFE).setVF 1)).FAULT = ⟨4, 0x1000⟩ ∧ (after (((atWord 0xD013).setI 0xFFE).setVF 1)).pc = 0x200 ∧ (after (((atWord 0xD013).setI 0xFFE).setVF 1)).readV 0xF = 1 := by decide

/-- V-D9 -/
theorem test_drw_reference_fault : (after ({ (atWord 0xD015) with cfg := { Config.standard with drawReferenceFault := true } } : State)).FAULT = ⟨6, 0xD015⟩ ∧ (after ({ (atWord 0xD015) with cfg := { Config.standard with drawReferenceFault := true } } : State)).pc = 0x200 := by decide

/-- S8 -/
theorem test_unsupported_changes_only_fault : (after ({ (atWord 0x9120) with DT := 3 } : State)).FAULT = ⟨1, 0x9120⟩ ∧ (after ({ (atWord 0x9120) with DT := 3 } : State)).pc = 0x200 ∧ (after ({ (atWord 0x9120) with DT := 3 } : State)).DT = 3 := by decide

/-- V-T7 -/
theorem test_timers : (after ({ (atWord 0x6000) with DT := 1, ST := 2 } : State)).DT = 0 ∧ (after ({ (atWord 0x6000) with DT := 1, ST := 2 } : State)).ST = 1 := by decide

/-- V-T6 -/
theorem test_latched_tick : (after ({ atWord 0x6A7F with FAULT := ⟨1, 0x9120⟩, DT := 3 } : State)) = { atWord 0x6A7F with FAULT := ⟨1, 0x9120⟩, DT := 3 } := by decide

/-- V-T2 -/
theorem test_fetch_at_last_word : (after (({ State.reset with pc := 0xFFE } : State).withFetchWord 16 0x6001)).pc = 0x1000 := by decide

/-- V-T1 -/
theorem test_fetch_odd : (after (({ State.reset with pc := 0x201 } : State).withFetchWord 16 0x6123)).readV 1 = 0x23 := by decide

/-- V-T5 -/
theorem test_fetch_error_above : (after ({ State.reset with pc := 0x10FE } : State)).FAULT = ⟨4, 0x10FE⟩ := by decide

/-- V-T3 -/
theorem test_fetch_error_at_last_byte : (after ({ State.reset with pc := 0xFFF } : State)).FAULT = ⟨4, 0x1000⟩ ∧ (after ({ State.reset with pc := 0xFFF } : State)).pc = 0xFFF := by decide

/-- V-R2 -/
theorem test_tick_after_reset : (after State.reset).FAULT = ⟨1, 0⟩ ∧ (after State.reset).pc = 0x200 := by decide

/-- V-T9 -/
theorem test_split_fields : (splitWord 0xD12F).f = 0xD ∧ (splitWord 0xD12F).x = 1 ∧ (splitWord 0xD12F).y = 2 ∧ (splitWord 0xD12F).n = 0xF ∧ (splitWord 0xD12F).nn = 0x2F ∧ (splitWord 0xD12F).nnn = 0x12F := by decide

/-! ### Ports -/

/-- V-R7 (the bytes of an odd ROM) and V-R6. -/
theorem test_load_odd : ((load [0x60] drawStart).1).byteAt 0x200 = 0x60 ∧ ((load [0x60] drawStart).1).byteAt 0x201 = 0 ∧
    ((load [0x60] drawStart).1).byteAt 0x300 = 0 ∧ (load [] drawStart).1 = State.reset := by decide

/-- V-R4: one byte too many changes nothing. -/
theorem test_load_too_large : load (List.replicate 3585 0) drawStart = (drawStart, .error 5 3585) := by
  unfold load
  rw [if_pos (by rw [List.length_replicate]; decide), List.length_replicate]; rfl

/-- R173: the tick that raises answers its own error, not what was latched before it. -/
theorem test_tick_that_raises_answers_its_error : (match tick 0x5A (atWord 0x9120) with
    | .next (_, r) => r == .error 1 0x9120
    | .fault _ => false
    | .refused _ => false) = true := by decide

/-- R45: each timer under its own name, and `FAULT` as kind above info (log 11). -/
theorem test_dbg_read_names_its_field :
    dbgRead .DT { State.reset with DT := 3, ST := 5 } = 3#8 ∧ dbgRead .ST { State.reset with DT := 3, ST := 5 } = 5#8 ∧
    dbgRead .FAULT { State.reset with FAULT := ⟨1, 0x9120⟩ } = 0x19120#19 := by decide

/-- S5: RND writes the draw that `tick` is given. -/
theorem test_tick_draw : (match tick 0x5A (atWord 0xC0FF) with
    | .next (t, r) => t.readV 0 == 0x5A && t.pc == 0x202 && r == .ok
    | .fault _ => false
    | .refused _ => false) = true := by decide

/-- R45: a write of SP above 16 is refused, one of 16 is not. -/
theorem test_dbg_write_sp : dbgWrite .SP 17 State.reset = none ∧ (dbgWrite .SP 16 State.reset).isSome = true := by decide

/-- V-R1: the font and the zero above it. -/
theorem test_reset_memory : State.reset.byteAt 0x000 = 0xF0 ∧ State.reset.byteAt 0x04B = 0xF0 ∧
    State.reset.byteAt 0x04F = 0x80 ∧ State.reset.byteAt 0x050 = 0 ∧ State.reset.byteAt 0xFFF = 0 := by decide

/-! ### Witnesses: for every statement with hypotheses, a state and operands that meet them together, for each clause at
a boundary of its range -/

/-- The reset state with `pc` elsewhere. -/
def atPc (p : Word) : State := { State.reset with pc := p }

/-- A configuration that draws by reference. -/
def referenceConfig : Config := { Config.standard with drawReferenceFault := true }

theorem witness_EncodeOfDecode : ∃ w i, decode w = .ok i := ⟨0x512F, .seReg 1 2 0xF, by decide⟩

theorem witness_OpcodeRowsDecideDecoding :
    (⟨0x800E, 0xF00F⟩ : OpcodeRow) ∈ opcodeMap ∧ (⟨0x800E, 0xF00F⟩ : OpcodeRow).matchesWord 0x8FFE = true ∧
    (∀ r ∈ opcodeMap, r.matchesWord 0x8FFF = false) := by decide

theorem witness_IgnoredNibblesDoNotMatter : (Instr.shl 1 0).wellFormed = true := by decide

theorem witness_StepRunsTheDecodedInstruction :
    (atWord 0xD015).FAULT.kind = 0 ∧ (atWord 0xD015).fetchWord = .ok 0xD015 ∧ decode 0xD015 = .ok (.drw 0 1 5) := by decide

theorem witness_FetchIsBigEndianUpToTheLastWord :
    (atPc 0xFFE).pc.toNat ≤ 0xFFE ∧ (atPc 0xFFF).pc.toNat = 0xFFF ∧ 0x1000 ≤ (atPc 0x1000).pc.toNat := by decide

/-- Also for `OnlyResetAndLoadClearTheFault`, with the two transactions that do clear it. -/
theorem witness_latched_state :
    (after (atWord 0x9120)).FAULT.kind ≠ 0 ∧
    (∃ b r, transact .reset ⟨after (atWord 0x9120), true⟩ = .next (b, r) ∧ b.state.FAULT ≠ (after (atWord 0x9120)).FAULT) ∧
    (∃ b r, transact (.load []) ⟨after (atWord 0x9120), true⟩ = .next (b, r) ∧
      b.state.FAULT ≠ (after (atWord 0x9120)).FAULT) :=
  ⟨by decide, ⟨_, _, rfl, by decide⟩, ⟨_, _, rfl, by decide⟩⟩

theorem witness_FailedTickCommitsNothing :
    ∃ (s t : State), s.FAULT.kind = 0 ∧ step s = .next t ∧ t.FAULT.kind ≠ 0 :=
  ⟨atWord 0x9120, _, by decide, step_after _, by decide⟩

theorem witness_TickLatchesTheFirstError_fetch :
    (atPc 0x1000).FAULT.kind = 0 ∧ 0x1000 ≤ (atPc 0x1000).pc.toNat ∧ 0x1000 ≤ (atPc 0xFFFF).pc.toNat ∧
    (atPc 0xFFF).FAULT.kind = 0 ∧ (atPc 0xFFF).pc.toNat = 0xFFF := by decide

theorem witness_TickLatchesTheFirstError_unsupported :
    ∃ (s : State) (w : Word), s.FAULT.kind = 0 ∧ s.fetchWord = .ok w ∧ ∃ e, decode w = .error e :=
  ⟨atWord 0xFFFF, 0xFFFF, by decide, by decide, .noHandler 0xFFFF, by decide⟩

theorem witness_TickLatchesTheFirstError_call :
    ∃ (s : State) (w : Word) (nnn : Addr), s.FAULT.kind = 0 ∧ s.fetchWord = .ok w ∧ decode w = .ok (.call nnn) ∧ s.SP.val = 16 :=
  ⟨{ atWord 0x2300 with SP := 16 }, 0x2300, 0x300, by decide, by decide, by decide, by decide⟩

theorem witness_TickLatchesTheFirstError_ret :
    ∃ (s : State) (w : Word) (x : Nibble), s.FAULT.kind = 0 ∧ s.fetchWord = .ok w ∧ decode w = .ok (.ret x) ∧ s.SP.val = 0 :=
  ⟨atWord 0x00EE, 0x00EE, 0, by decide, by decide, by decide, by decide⟩

theorem witness_TickLatchesTheFirstError_reference :
    ∃ (s : State) (w : Word) (x y n : Nibble), s.FAULT.kind = 0 ∧ s.fetchWord = .ok w ∧ decode w = .ok (.drw x y n) ∧ s.cfg.drawReferenceFault = true :=
  ⟨{ atWord 0xD015 with cfg := referenceConfig }, 0xD015, 0, 1, 5, by decide, by decide, by decide, by decide⟩

theorem witness_TickLatchesTheFirstError_sprite :
    ∃ (s : State) (w : Word) (x y n : Nibble) (r : Nat), s.FAULT.kind = 0 ∧ s.fetchWord = .ok w ∧ decode w = .ok (.drw x y n) ∧
      s.cfg.drawReferenceFault = false ∧ r < n.toNat ∧ 4096 ≤ s.I.toNat + r ∧ ∀ q, q < r → s.I.toNat + q < 4096 :=
  ⟨(atWord 0xD013).setI 0xFFE, 0xD013, 0, 1, 3, 2, by decide, by decide, by decide, by decide, by decide, by decide,
    fun q hq => by have h : ((atWord 0xD013).setI 0xFFE).I.toNat = 0xFFE := by decide
                   rw [h]; omega⟩

/-- Both sides of the equivalence: a tick that is safe and ticks that are not. -/
theorem witness_TickCommitsExactlyWhenRulesAreRespected :
    (atWord 0x6A7F).FAULT.kind = 0 ∧ (atWord 0x6A7F).safeToRun ∧ (atWord 0x9000).FAULT.kind = 0 ∧
    ¬ (atWord 0x9000).safeToRun := by
  refine ⟨by decide, ⟨by decide, .ldImm 0xA 0x7F, by decide, trivial⟩, by decide, ?_⟩
  rintro ⟨-, i, h, -⟩
  have h' : decode (wordOfBytes ((atWord 0x9000).byteAt (atWord 0x9000).pc.toNat)
      ((atWord 0x9000).byteAt ((atWord 0x9000).pc.toNat + 1))) = .error (.noHandler 0x9000) := by decide
  rw [h'] at h; cases h

/-- Two ticks of a jump to itself, the second with the timer at 0. -/
theorem witness_TimersCountDownToZero :
    ∃ (s t : State), s.FAULT.kind = 0 ∧ Host.Core.run core 2 s = .next t ∧ t.FAULT.kind = 0 ∧ s.DT = 1 :=
  ⟨{ atWord 0x1200 with DT := 1 }, _, by decide,
    (core_run_succ 1 (step_after _)).trans ((core_run_succ 0 (step_after _)).trans rfl), by decide, rfl⟩

theorem witness_step_answers : ∃ s t, step s = .next t := ⟨State.reset, _, step_after _⟩

theorem witness_StateIsWrittenOnlyByItsInstructions :
    (result (.ldImm 0xF 1) State.reset).readV 0xF ≠ State.reset.readV 0xF ∧
    (result (.ldI 1) State.reset).I ≠ State.reset.I ∧
    (result (.call 0x300) State.reset).SP ≠ State.reset.SP ∧
    (result (.ret 0) { State.reset with SP := 1 }).SP ≠ ({ State.reset with SP := 1 } : State).SP ∧
    (result (.call 0x300) State.reset).stack ≠ State.reset.stack ∧
    (result (.drw 0 1 1) State.reset).FB ≠ State.reset.FB ∧
    (result (.cls 0) (State.reset.setFB (Framebuffer.clear.setPixel 0 0 true))).FB ≠ Framebuffer.clear.setPixel 0 0 true := by
  decide

theorem witness_exec_answers (i : Instr) (s : State) : ∃ t, exec i s = .next t := ⟨_, exec_result i s⟩

theorem witness_OnlyRndDependsOnTheDraw :
    (∀ x nn, Instr.drw 0 1 5 ≠ .rnd x nn) ∧ ∃ t, exec (.drw 0 1 5) State.reset = .next t :=
  ⟨fun _ _ h => (by cases h), _, exec_result _ _⟩

theorem witness_TickGivesItsDrawToRnd :
    (atWord 0xCF80).FAULT.kind = 0 ∧ (atWord 0xCF80).fetchWord = .ok 0xCF80 ∧ decode 0xCF80 = .ok (.rnd 0xF 0x80) := by decide

/-- A well-formed state other than the reset state, with a step. -/
theorem witness_StepKeepsWellFormedStates : ∃ (s t : State), s.wf ∧ step s = .next t :=
  ⟨atWord 0x6A7F, _, ⟨by decide, by decide, fun x => ((atWord 0x6A7F).readV x).isLt, by decide, by decide,
    fun k => ((atWord 0x6A7F).slot k).isLt, by decide, by decide⟩, step_after _⟩

theorem witness_TransactionsKeepWellFormedStates :
    ∃ s : State, s.wf ∧ s.FAULT.kind = 0 ∧ 0xFFE < (0xFFF : Word).toNat ∧
      ∃ b r, transact .reset ⟨s, false⟩ = .next (b, r) :=
  ⟨atWord 0x6A7F, ⟨by decide, by decide, fun x => ((atWord 0x6A7F).readV x).isLt, by decide, by decide,
    fun k => ((atWord 0x6A7F).slot k).isLt, by decide, by decide⟩, by decide, by decide, _, _, rfl⟩

/-- A state on the bound: `pc` = 0x10FE and a return address of 0x1000. -/
theorem witness_StepKeepsAddressesBounded : ∃ (s t : State), s.addressesBounded ∧ s.pc = 0x10FE ∧ s.slot 0 = 0x1000 ∧ step s = .next t :=
  ⟨{ State.reset with pc := 0x10FE, stack := State.reset.stack.set 0 0x1000 }, _, ⟨by decide, by decide⟩, rfl, by decide,
    step_after _⟩

theorem witness_StepKeepsFaultCoherent :
    ∃ (s t : State), s.faultCoherent ∧ s.FAULT.kind = 6 ∧ step s = .next t :=
  ⟨{ State.reset with FAULT := ⟨6, 0xD015⟩, cfg := referenceConfig }, _,
    ⟨by decide, by decide, by decide, by decide⟩, rfl, step_after _⟩

theorem witness_RetPopsTheReturnAddress :
    ({ State.reset with SP := 1 } : State).SP.val = 0 + 1 ∧ ({ State.reset with SP := 16 } : State).SP.val = 15 + 1 ∧
    State.reset.SP.val = 0 := by decide

theorem witness_JpSetsThePc :
    (0xFFF : Addr) = 0xFFF ∧ (atWord 0x1200).FAULT.kind = 0 ∧ (atWord 0x1200).fetchWord = .ok 0x1200 ∧
    decode 0x1200 = .ok (.jp 0x200) ∧ (0x200 : Addr).toNat = (atWord 0x1200).pc.toNat := by decide

theorem witness_CallPushesTheReturnAddress :
    State.reset.SP.val < 16 ∧ ({ State.reset with SP := 15 } : State).SP.val < 16 ∧
    ({ State.reset with SP := 16 } : State).SP.val = 16 := by decide

theorem witness_PopReturnsThePushedAddress : ({ State.reset with SP := 15 } : State).SP.val < 16 := by decide

theorem witness_SkipsAdvanceByFourOrTwo :
    (0x42 : Byte) = ((atPc 0xFFC).setV 3 0x42).readV 3 ∧ ((atPc 0xFFC).setV 3 0x42).pc = 0xFFC ∧
    DecodesAs 0x5000 0xF000 (fun w => .seReg (w.extractLsb' 8 4) (w.extractLsb' 4 4) (w.extractLsb' 0 4)) :=
  ⟨by decide, by decide, fun w h => by
    have := family_of_mask h
    simp [decode, splitWord, selectHandler, this]⟩

/-- The masked equality of `DecodesAs` is met in every family; here one word for each mask. -/
theorem witness_DecodesAs :
    (0x3342 : Word) &&& 0xF000 = 0x3000 ∧ (0x01E0 : Word) &&& 0xF0FF = 0x00E0 ∧ (0x8F1E : Word) &&& 0xF00F = 0x800E := by decide

theorem witness_JpV0AddsV0ToTheTarget : 0xFFF < ((State.reset.setV 0 1).readV 0).toNat + (0xFFF : Addr).toNat := by decide

theorem witness_RndMasksTheDraw : ∃ (s : State) (d : Byte) (ds : List Byte), s.draws = d :: ds :=
  ⟨{ State.reset with draws := [0xB7] }, 0xB7, [], rfl⟩

theorem witness_alu_destination_off_VF : (0xE : Nibble) ≠ 0xF#4 := by decide

theorem witness_SubnWritesDifferenceAndNoBorrow :
    ((0xE : Nibble) ≠ 0xF#4 ∨ State.reset.cfg.subnFlagOrder = .after) ∧
    ((0xF : Nibble) ≠ 0xF#4 ∨ State.reset.cfg.subnFlagOrder = .before) ∧
    ({ State.reset with cfg := { Config.standard with subnFlagOrder := .after } } : State).cfg.subnFlagOrder = .after := by decide

theorem witness_SubnOrdersAgreeOffVF :
    ∃ (s t u : State) (x y : Nibble), x ≠ 0xF#4 ∧
      exec (.subn x y) { s with cfg := { s.cfg with subnFlagOrder := .before } } = .next t ∧
      exec (.subn x y) { s with cfg := { s.cfg with subnFlagOrder := .after } } = .next u :=
  ⟨State.reset, _, _, 0xE, 0xF, by decide, exec_result _ _, exec_result _ _⟩

/-- The last sprite that fits, a pixel it covers and one it does not, and both outcomes of the collision. -/
theorem witness_DrwFlipsExactlyTheSpritePixels :
    State.reset.cfg.drawReferenceFault = false ∧ (State.reset.setI 0xFFF).I.toNat + (1 : Nibble).toNat ≤ 4096 ∧
    State.reset.spriteCovers 0 0 5 3 1 ∧ ¬ State.reset.spriteCovers 0 0 5 40 1 ∧
    (let s := State.reset.setFB (Framebuffer.clear.setPixel 3 1 true)
     s.pixel 3 1 = true ∧ (result (.drw 0 1 5) s).pixel 3 1 = false ∧ (result (.drw 0 1 5) s).readV 0xF#4 = 1) ∧
    (result (.drw 0 1 5) State.reset).readV 0xF#4 = 0 := by
  refine ⟨by decide, by decide, ⟨3, 1, by decide, by decide, by decide, by decide, by decide⟩, ?_, by decide, by decide⟩
  rintro ⟨dc, dr, h1, -, h2, -⟩
  have h2 : 40 = (0 + dc) % 64 := h2
  omega

theorem witness_DrwOfNoRowsOnlyClearsVF : State.reset.cfg.drawReferenceFault = false := rfl

theorem witness_DrwRaisesOutsideMemoryOrByReference :
    State.reset.cfg.drawReferenceFault = false ∧ 4096 < (State.reset.setI 0xFFF).I.toNat + (2 : Nibble).toNat ∧
    ({ State.reset with cfg := referenceConfig } : State).cfg.drawReferenceFault = true := by decide

theorem witness_MemoryHoldsTheLastByteWritten :
    (atWord 0x6A7F).mem.wf (atWord 0x6A7F).cfg = true ∧ (4095 < 4096) ∧ (4096 ≤ 4096) := by decide

theorem witness_ResetRestoresTheBaseline :
    79 < State.reset.cfg.font.length ∧ 79 < 4096 ∧ State.reset.cfg.font.length ≤ 80 ∧ 4095 < 4096 := by decide

theorem witness_TickAfterBareResetIsUnsupported : State.reset.cfg.wf = true := by decide

theorem witness_LoadCopiesTheRomOrChangesNothing :
    (List.replicate 3584 (0x12 : Byte)).length ≤ 3584 ∧ (List.replicate 3584 (0x12 : Byte))[3583]? = some 0x12 ∧
    3584 < (List.replicate 3585 (0x12 : Byte)).length := by
  rw [List.length_replicate, List.length_replicate, List.getElem?_replicate]; decide

theorem witness_DebugPortWritesOneField :
    ∃ (v : BitVec DbgField.SP.width) (t : State), State.reset.mem.wf State.reset.cfg = true ∧
      dbgWrite .SP v State.reset = some t ∧ v.toNat = 16 ∧ 16 < (17#5).toNat :=
  ⟨16#5, _, by decide, rfl, by decide, by decide⟩

theorem witness_PlacedWordIsFetchedNext :
    State.reset.mem.wf State.reset.cfg = true ∧ 65535 < 65536 ∧ (atPc 0xFFE).FAULT = ⟨0, 0⟩ ∧ (atPc 0xFFE).pc.toNat ≤ 0xFFE := by
  decide

/-- A tick that commits and one that raises, both from a state with no error latched. -/
theorem witness_TickHandsBackTheErrorItRaised :
    (atWord 0x6A7F).FAULT.kind = 0 ∧ (after { atWord 0x6A7F with draws := [0x5A] }).FAULT.kind = 0 ∧
    (atWord 0x9120).FAULT.kind = 0 ∧ (after { atWord 0x9120 with draws := [0x5A] }).FAULT = ⟨1, 0x9120⟩ := by decide

/-- A write that is accepted, at the largest value, and the two that are refused. -/
theorem witness_DebugPortAnswersTheNamedField :
    dbgWrite .SP 16#5 State.reset = some { State.reset with SP := 16 } ∧ dbgWrite .SP 17#5 State.reset = none ∧
    dbgWrite .FAULT 0#19 State.reset = none := by decide

end Sys2Proof.Tests
end

section
/-! SUPPORT. The per-instruction layer of the state proofs: what `exec` answers for each instruction, in terms of the
named operations. Later proofs rewrite with these equations and do not unfold `exec`. -/

namespace Sys2Proof.Machine

variable (s : State) (x y n : Nibble) (nn : Byte) (nnn : Addr)

/-! ### Instructions that always commit -/

@[simp] theorem exec_cls : exec (.cls x) s = .next (s.advance.setFB Framebuffer.clear) := rfl
@[simp] theorem exec_jp : exec (.jp nnn) s = .next (s.advance.setPc (absoluteTarget nnn)) := rfl
@[simp] theorem exec_seImm : exec (.seImm x nn) s = .next (s.advance.skipIf (s.readV x == nn)) := rfl
@[simp] theorem exec_sneImm : exec (.sneImm x nn) s = .next (s.advance.skipIf (s.readV x != nn)) := rfl
@[simp] theorem exec_seReg : exec (.seReg x y n) s = .next (s.advance.skipIf (s.readV x == s.readV y)) := rfl
@[simp] theorem exec_ldImm : exec (.ldImm x nn) s = .next (s.advance.setV x nn) := rfl
@[simp] theorem exec_addImm : exec (.addImm x nn) s = .next (s.advance.setV x (sum8 (s.readV x) nn)) := rfl
@[simp] theorem exec_ldReg : exec (.ldReg x y) s = .next (s.advance.setV x (s.readV y)) := rfl
@[simp] theorem exec_orReg : exec (.orReg x y) s = .next (s.advance.setV x (s.readV x ||| s.readV y)) := rfl
@[simp] theorem exec_andReg : exec (.andReg x y) s = .next (s.advance.setV x (s.readV x &&& s.readV y)) := rfl
@[simp] theorem exec_xorReg : exec (.xorReg x y) s = .next (s.advance.setV x (s.readV x ^^^ s.readV y)) := rfl
@[simp] theorem exec_addReg : exec (.addReg x y) s =
    .next ((s.advance.setV x (sum8 (s.readV x) (s.readV y))).setVF (carryOut (s.readV x) (s.readV y))) := rfl
@[simp] theorem exec_sub : exec (.sub x y) s =
    .next ((s.advance.setVF (noBorrow (s.readV x) (s.readV y))).setV x (diff8 (s.readV x) (s.readV y))) := rfl
@[simp] theorem exec_shr : exec (.shr x y) s =
    .next ((s.advance.setVF (shiftedOutLow (s.readV x))).setV x (shiftRight1 (s.readV x))) := rfl
@[simp] theorem exec_shl : exec (.shl x y) s =
    .next ((s.advance.setVF (shiftedOutHigh (s.readV x))).setV x (shiftLeft1 (s.readV x))) := rfl
@[simp] theorem exec_ldI : exec (.ldI nnn) s = .next (s.advance.setI nnn) := rfl
@[simp] theorem exec_jpV0 : exec (.jpV0 nnn) s = .next (s.advance.setPc (s.indexedTarget nnn)) := rfl
@[simp] theorem exec_rnd : exec (.rnd x nn) s = .next (s.advance.setV x (s.nextDraw &&& nn)) := rfl

variable {s}

theorem exec_subn_before (h : s.cfg.subnFlagOrder = .before) : exec (.subn x y) s =
    .next ((s.advance.setVF (noBorrow (s.readV y) (s.readV x))).setV x (diff8 (s.readV y) (s.readV x))) := by
  simp [exec, execSubn, h, State.snapshot]

theorem exec_subn_after (h : s.cfg.subnFlagOrder = .after) : exec (.subn x y) s =
    .next ((s.advance.setV x (diff8 (s.readV y) (s.readV x))).setVF
      (noBorrow (s.readV y) (diff8 (s.readV y) (s.readV x)))) := by
  simp [exec, execSubn, h, State.snapshot]

/-! ### Instructions that can raise -/

/-- The state after a pop: one live entry less, every slot as it was (10_state.md R29). -/
def State.popped (s : State) : State := { s with SP := ⟨s.SP.val - 1, by omega⟩ }

/-- The word a pop hands back. -/
def State.topSlot (s : State) : Word := s.stack.get ⟨s.SP.val - 1, by omega⟩

/-- The state after a push on a stack that is not full (10_state.md R28). -/
def State.pushed (s : State) (v : Word) (h : s.SP.val < 16) : State :=
  { s with SP := ⟨s.SP.val + 1, by omega⟩, stack := s.stack.set s.SP.val v h }

theorem State.pop_eq_popped {A : Word} (h : s.SP.val ≠ 0) : s.pop A = .ok (s.topSlot, s.popped) := State.pop_ok h

theorem State.push_eq_pushed {A v : Word} (h : s.SP.val < 16) : s.push A v = .ok (s.pushed v h) := State.push_ok h

theorem exec_ret_ok (h : s.SP.val ≠ 0) : exec (.ret x) s = .next (s.advance.popped.setPc s.topSlot) := by
  simp only [exec, execRet, State.pop_eq_popped (s := s.advance) h]; rfl

theorem exec_ret_empty (h : s.SP.val = 0) : exec (.ret x) s = .next (s.raise ⟨.stackUnderflow, s.pc⟩) := by
  simp only [exec, execRet, State.pop_empty (s := s.advance) h]; rfl

theorem exec_call_ok (h : s.SP.val < 16) :
    exec (.call nnn) s = .next ((s.advance.pushed (s.pc + 2) h).setPc (absoluteTarget nnn)) := by
  simp only [exec, execCall, State.push_eq_pushed (s := s.advance) h]; rfl

theorem exec_call_full (h : s.SP.val = 16) : exec (.call nnn) s = .next (s.raise ⟨.stackOverflow, s.pc⟩) := by
  simp only [exec, execCall, State.push_full (s := s.advance) h]; rfl

/-- The canvas after DXYN has drawn the bytes at `I` on the framebuffer (43_display.md R161). -/
def State.drawn (s : State) (x y n : Nibble) : Canvas :=
  Canvas.drawSprite ⟨s.FB, false⟩ (s.readV x).toNat (s.readV y).toNat ((List.range' s.I.toNat n.toNat).map s.byteAt)

theorem exec_drw_reference (h : s.cfg.drawReferenceFault = true) :
    exec (.drw x y n) s = .next (s.raise ⟨.notImplemented, encode (.drw x y n)⟩) := by
  simp [exec, execDrw, h]

theorem exec_drw_ok (h : s.cfg.drawReferenceFault = false) (hI : s.I.toNat + n.toNat ≤ 4096) :
    exec (.drw x y n) s =
      .next ((s.advance.setFB (s.drawn x y n).fb).setVF (flagByte (s.drawn x y n).collision)) := by
  simp only [exec, execDrw, h, State.spriteRows, State.memReadMany_ok hI]; rfl

theorem exec_drw_outside (h : s.cfg.drawReferenceFault = false) (hI : 4096 < s.I.toNat + n.toNat) :
    exec (.drw x y n) s = .next (s.raise ⟨.outOfBoundsAccess, 0x1000⟩) := by
  have hle : s.I.toNat ≤ 4096 := by omega
  simp only [exec, execDrw, h, State.spriteRows, State.memReadMany_error hle hI]; rfl

/-! ### Outcomes of the instructions that do more than one thing

For proofs that need the shape of the answer and not its values. -/

theorem exec_subn_cases :
    (∃ d b, exec (.subn x y) s = .next ((s.advance.setVF b).setV x d)) ∨
    (∃ d b, exec (.subn x y) s = .next ((s.advance.setV x d).setVF b)) := by
  cases h : s.cfg.subnFlagOrder
  · exact .inl ⟨_, _, exec_subn_before x y h⟩
  · exact .inr ⟨_, _, exec_subn_after x y h⟩

theorem exec_ret_cases :
    (∃ e, exec (.ret x) s = .next (s.raise e)) ∨ exec (.ret x) s = .next (s.advance.popped.setPc s.topSlot) := by
  by_cases h : s.SP.val = 0
  · exact .inl ⟨_, exec_ret_empty x h⟩
  · exact .inr (exec_ret_ok x h)

theorem exec_call_cases :
    (∃ e, exec (.call nnn) s = .next (s.raise e)) ∨
    (∃ h : s.SP.val < 16, exec (.call nnn) s = .next ((s.advance.pushed (s.pc + 2) h).setPc (absoluteTarget nnn))) := by
  by_cases h : s.SP.val = 16
  · exact .inl ⟨_, exec_call_full nnn h⟩
  · have hlt : s.SP.val < 16 := by omega
    exact .inr ⟨hlt, exec_call_ok nnn hlt⟩

theorem exec_drw_cases :
    (∃ e, exec (.drw x y n) s = .next (s.raise e)) ∨
    (∃ fb b, exec (.drw x y n) s = .next ((s.advance.setFB fb).setVF b)) := by
  cases hc : s.cfg.drawReferenceFault
  · by_cases hI : s.I.toNat + n.toNat ≤ 4096
    · exact .inr ⟨_, _, exec_drw_ok x y n hc hI⟩
    · exact .inl ⟨_, exec_drw_outside x y n hc (by omega)⟩
  · exact .inl ⟨_, exec_drw_reference x y n hc⟩

end Sys2Proof.Machine
end

section
/-! SUPPORT. What each instruction writes (10_state.md R36), and what it keeps of `pc` and the stack. -/

namespace Sys2Proof.Machine

/-- From `s` to `t` nothing changed but what `i` may write; `pc` and `FAULT` are not spoken of. -/
structure WritesOnlyOwn (i : Instr) (s t : State) : Prop where
  readV : ∀ x, x ∉ i.writtenRegs → t.readV x = s.readV x
  I : (∀ nnn, i ≠ .ldI nnn) → t.I = s.I
  SP : (∀ x, i ≠ .ret x) → (∀ nnn, i ≠ .call nnn) → t.SP = s.SP
  stack : (∀ nnn, i ≠ .call nnn) → t.stack = s.stack
  FB : (∀ x, i ≠ .cls x) → (∀ x y n, i ≠ .drw x y n) → t.FB = s.FB

theorem WritesOnlyOwn.raise (i : Instr) (s : State) (e : Trap) : WritesOnlyOwn i s (s.raise e) :=
  ⟨fun _ _ => rfl, fun _ => rfl, fun _ _ => rfl, fun _ => rfl, fun _ _ => rfl⟩

theorem exec_writesOnlyOwn {i : Instr} {s t : State} (h : exec i s = .next t) : WritesOnlyOwn i s t := by
  cases i with
  | ret x =>
    rcases exec_ret_cases (s := s) x with ⟨e, he⟩ | hw
    · cases he.symm.trans h; exact .raise _ s e
    · cases hw.symm.trans h
      exact ⟨fun _ _ => rfl, fun _ => rfl, fun hr => absurd rfl (hr x), fun _ => rfl, fun _ _ => rfl⟩
  | call nnn =>
    rcases exec_call_cases (s := s) nnn with ⟨e, he⟩ | ⟨_, hw⟩
    · cases he.symm.trans h; exact .raise _ s e
    · cases hw.symm.trans h
      exact ⟨fun _ _ => rfl, fun _ => rfl, fun _ hc => absurd rfl (hc nnn), fun hc => absurd rfl (hc nnn), fun _ _ => rfl⟩
  | drw x y n =>
    rcases exec_drw_cases (s := s) x y n with ⟨e, he⟩ | ⟨fb, b, hw⟩
    · cases he.symm.trans h; exact .raise _ s e
    · cases hw.symm.trans h
      constructor <;> simp +contextual [Instr.writtenRegs, State.readV_setVF, regF]
  | subn x y =>
    rcases exec_subn_cases (s := s) x y with ⟨d, b, hw⟩ | ⟨d, b, hw⟩ <;> cases hw.symm.trans h <;>
      constructor <;> simp +contextual [Instr.writtenRegs, State.readV_setVF, State.readV_setV, regF]
  | _ =>
    cases h
    constructor <;> simp +contextual [Instr.writtenRegs, State.readV_setVF, State.readV_setV, regF]

end Sys2Proof.Machine
end
section
/-! SUPPORT. Step and `tick` as rules: what each answers when its fetch, its decoder and its instruction are known. -/

namespace Sys2Proof.Machine

theorem step_answers (s : State) : ∃ t, step s = .next t := by
  rcases step_cases s with ⟨_, h⟩ | ⟨_, _, h, _⟩ | ⟨_, _, _, _, _, _, _, _, h⟩ <;> exact ⟨_, h⟩

/-- A fetch above the last word fails (20_memory.md R64). -/
theorem State.fetchWord_error_of_gt {s : State} (h : 0xFFE < s.pc.toNat) : ∃ e, s.fetchWord = .error e := by
  rcases Nat.lt_or_ge s.pc.toNat 0x1000 with hlt | hge
  · exact ⟨_, State.fetchWord_error_at_last (by omega)⟩
  · exact ⟨_, State.fetchWord_error_above hge⟩

theorem State.pc_le_of_fetchWord_ok {s : State} {w : Word} (h : s.fetchWord = .ok w) : s.pc.toNat ≤ 0xFFE := by
  by_contra hgt
  obtain ⟨e, he⟩ := State.fetchWord_error_of_gt (s := s) (by omega)
  cases he.symm.trans h

theorem step_of_fetch_error {s : State} {e : Trap} (hk : s.FAULT.kind = 0) (hf : s.fetchWord = .error e) :
    step s = .next (s.raise e).consumeDraw := by
  simp [step, runTick, State.latched_eq_false.mpr hk, hf, State.endTick_of_latched]

/-- The tick of a word that decodes to an instruction that commits (30_encoding.md R84 to R88). -/
theorem step_of_exec {s t : State} {w : Word} {i : Instr} (hk : s.FAULT.kind = 0) (hf : s.fetchWord = .ok w)
    (hd : decode w = .ok i) (he : exec i s = .next t) (ht : t.FAULT.kind = 0) :
    step s = .next t.tickTimers.consumeDraw := by
  simp [step, runTick, runWord, State.latched_eq_false.mpr hk, hf, hd, he,
    State.endTick_of_not_latched (State.latched_eq_false.mpr ht)]

theorem tick_of_step {s t : State} {rnd : Byte} (h : step { s with draws := rnd :: s.draws } = .next t) :
    tick rnd s = .next ({ t with draws := s.draws }, t.tickReply) := by
  simp [tick, h]

theorem tick_ok_of_step {s t : State} {rnd : Byte} (h : step { s with draws := rnd :: s.draws } = .next t)
    (ht : t.FAULT.kind = 0) : tick rnd s = .next ({ t with draws := s.draws }, .ok) := by
  rw [tick_of_step h, State.tickReply_of_ok ht]

theorem transact_tick {s t : State} {rnd : Byte} {r : Reply} (h : tick rnd s = .next (t, r)) :
    transact (.tick rnd) ⟨s, true⟩ = .next (⟨t, true⟩, r) := by
  simp [transact, h]

end Sys2Proof.Machine
end

section
/-! SUPPORT. Load, the writes of the debug port and the transactions: what each can leave of the block, said once. -/

namespace Sys2Proof.Machine

/-- A copy that ends inside the address space succeeds, changes memory alone and keeps it canonical. -/
theorem State.memWriteMany_ok {s : State} {a : Nat} {bs : List Byte} (h : a + bs.length ≤ 4096) :
    ∃ m, s.memWriteMany a bs = .ok { s with mem := m } ∧ (s.mem.wf s.cfg = true → m.wf s.cfg = true) := by
  induction bs generalizing s a with
  | nil => exact ⟨s.mem, rfl, id⟩
  | cons b bs ih =>
    rw [List.length_cons] at h
    obtain ⟨m, hm, hwf⟩ := ih (s := { s with mem := s.mem.write s.cfg a b }) (a := a + 1) (by omega)
    refine ⟨m, ?_, fun hs => hwf (Memory.wf_write hs (show a < 4096 by omega))⟩
    simp [State.memWriteMany, State.memWrite_ok b (show a < 4096 by omega), hm]

theorem load_fits {data : List Byte} (s : State) (h : data.length ≤ 3584) :
    ∃ m, load data s = ({ s.resetBlock with mem := m }, .ok) ∧ m.wf s.cfg = true := by
  obtain ⟨m, hm, hwf⟩ := State.memWriteMany_ok (s := s.resetBlock) (a := progBase) (bs := data)
    (show 512 + data.length ≤ 4096 by omega)
  have hlen : ¬ data.length > romMax := by simpa [romMax, memSize, progBase] using h
  exact ⟨m, by simp [load, hlen, hm], hwf (Memory.wf_nil _)⟩

theorem load_tooLong {data : List Byte} (s : State) (h : 3584 < data.length) :
    load data s = (s, .error 5 (BitVec.ofNat 16 (min data.length 0xFFFF))) := by
  have hlen : data.length > romMax := by simpa [romMax, memSize, progBase] using h
  simp [load, hlen, ErrorKind.code]

theorem transact_load_of_fits {data : List Byte} {s t : State} (b : Bool) (h : load data s = (t, .ok)) :
    transact (.load data) ⟨s, b⟩ = .next (⟨t, true⟩, .ok) := by
  simp [transact, h]

theorem transact_load_of_tooLong {data : List Byte} (s : State) (b : Bool) (h : 3584 < data.length) :
    transact (.load data) ⟨s, b⟩ = .next (⟨s, b⟩, .error 5 (BitVec.ofNat 16 (min data.length 0xFFFF))) := by
  simp [transact, load_tooLong s h]

theorem dbgWrite_SP {v : BitVec 5} {s t : State} (h : dbgWrite .SP v s = some t) :
    ∃ hv : v.toNat < 17, t = { s with SP := ⟨v.toNat, hv⟩ } := by
  simp only [dbgWrite] at h
  split at h <;> cases h
  exact ⟨_, rfl⟩

theorem dbgWrite_FAULT {f : DbgField} {v : BitVec f.width} {s t : State} (h : dbgWrite f v s = some t) :
    t.FAULT = s.FAULT := by
  cases f with
  | SP => obtain ⟨_, rfl⟩ := dbgWrite_SP h; rfl
  | FAULT => cases h
  | _ => cases h; rfl

/-- A byte the port writes lies inside memory. -/
theorem dbgWrite_mem_wf {f : DbgField} {v : BitVec f.width} {s t : State} (hm : s.mem.wf s.cfg = true)
    (h : dbgWrite f v s = some t) : t.mem.wf t.cfg = true := by
  cases f with
  | mem a => cases h; exact Memory.wf_write hm a.isLt
  | SP => obtain ⟨_, rfl⟩ := dbgWrite_SP h; exact hm
  | FAULT => cases h
  | _ => cases h; exact hm

/-- What a transaction that answers can do to the state: a step with its draw, a reset with or without a program, one
write of the debug port, or nothing. -/
theorem transact_cases {x : Transaction} {b b' : Block} {r : Reply} (h : transact x b = .next (b', r)) :
    (∃ rnd t, step { b.state with draws := rnd :: b.state.draws } = .next t ∧
      b'.state = { t with draws := b.state.draws }) ∨
    (∃ m, b'.state = { b.state.resetBlock with mem := m } ∧ m.wf b.state.cfg = true ∧
      (x = .reset ∨ ∃ data, x = .load data ∧ data.length ≤ 3584)) ∨
    (∃ f v, dbgWrite f v b.state = some b'.state) ∨
    b'.state = b.state := by
  obtain ⟨s, ready⟩ := b
  cases x with
  | tick rnd =>
    cases ready with
    | false => cases h
    | true =>
      obtain ⟨t, ht⟩ := step_answers { s with draws := rnd :: s.draws }
      cases (transact_tick (tick_of_step ht)).symm.trans h
      exact .inl ⟨rnd, t, ht, rfl⟩
  | reset => cases h; exact .inr (.inl ⟨[], rfl, Memory.wf_nil _, .inl rfl⟩)
  | load data =>
    by_cases hd : data.length ≤ 3584
    · obtain ⟨m, hl, hm⟩ := load_fits s hd
      cases (transact_load_of_fits ready hl).symm.trans h
      exact .inr (.inl ⟨m, rfl, hm, .inr ⟨data, rfl, hd⟩⟩)
    · cases (transact_load_of_tooLong s ready (Nat.lt_of_not_le hd)).symm.trans h
      exact .inr (.inr (.inr rfl))
  | dbgWrite f v =>
    cases hw : dbgWrite f v s with
    | none =>
      simp only [transact, hw] at h; cases h
      exact .inr (.inr (.inr rfl))
    | some t =>
      simp only [transact, hw] at h; cases h
      exact .inr (.inr (.inl ⟨f, v, hw⟩))
  | fbRead c r => cases h; exact .inr (.inr (.inr rfl))
  | dbgRead f => cases h; exact .inr (.inr (.inr rfl))
  | status => cases h; exact .inr (.inr (.inr rfl))

end Sys2Proof.Machine
end

section
/-! SUPPORT. Frames (`ChangesOnly`): how they compose, and the frame of each single update. -/

namespace Sys2Proof.Machine

theorem ChangesOnly.mono {p q : Part → Prop} {s t : State} (h : ChangesOnly p s t) (hpq : ∀ a, p a → q a) :
    ChangesOnly q s t := fun a ha => h a fun hp => ha (hpq a hp)

theorem Part.same_trans {p : Part} {s t u : State} (h₁ : p.same s t) (h₂ : p.same t u) : p.same s u := by
  cases p <;> exact h₂.trans h₁

theorem ChangesOnly.trans {p : Part → Prop} {s t u : State} (h₁ : ChangesOnly p s t) (h₂ : ChangesOnly p t u) :
    ChangesOnly p s u := fun a ha => Part.same_trans (h₁ a ha) (h₂ a ha)

theorem changesOnly_setV (s : State) (x : Nibble) (b : Byte) : ChangesOnly (· = .V x) s (s.setV x b) := by
  intro p hp
  cases p with
  | V j => exact State.readV_setV_of_ne s b fun h => hp (congrArg Part.V h)
  | _ => exact rfl

theorem changesOnly_setPc (s : State) (a : Word) : ChangesOnly (· = .pc) s (s.setPc a) := by
  intro p hp
  cases p with
  | pc => exact absurd rfl hp
  | _ => exact rfl

theorem changesOnly_setI (s : State) (a : Addr) : ChangesOnly (· = .I) s (s.setI a) := by
  intro p hp
  cases p with
  | I => exact absurd rfl hp
  | _ => exact rfl

theorem changesOnly_SP (s : State) (k : Fin 17) : ChangesOnly (· = .SP) s { s with SP := k } := by
  intro p hp
  cases p with
  | SP => exact absurd rfl hp
  | _ => exact rfl

theorem changesOnly_DT (s : State) (b : Byte) : ChangesOnly (· = .DT) s { s with DT := b } := by
  intro p hp
  cases p with
  | DT => exact absurd rfl hp
  | _ => exact rfl

theorem changesOnly_ST (s : State) (b : Byte) : ChangesOnly (· = .ST) s { s with ST := b } := by
  intro p hp
  cases p with
  | ST => exact absurd rfl hp
  | _ => exact rfl

theorem changesOnly_tickTimers (s : State) : ChangesOnly (fun p => p = .DT ∨ p = .ST) s s.tickTimers := by
  intro p hp
  cases p with
  | DT => exact absurd (.inl rfl) hp
  | ST => exact absurd (.inr rfl) hp
  | _ => exact rfl

theorem changesOnly_setPixel (s : State) (x : Column) (y : Row) (b : Bool) :
    ChangesOnly (· = .pixel x y) s (s.setFB (s.FB.setPixel x y b)) := by
  intro p hp
  cases p with
  | pixel c r =>
    have hne : ¬ (c = x ∧ r = y) := by rintro ⟨rfl, rfl⟩; exact hp rfl
    exact (Framebuffer.pixel_setPixel s.FB x c y r b).trans (if_neg hne)
  | _ => exact rfl

/-- Slot `k` of the stack after a write to it and to another slot. -/
theorem State.slot_set (s : State) {i : Nat} (hi : i < 16) (v : Word) (k : Nibble) :
    ({ s with stack := s.stack.set i v hi } : State).slot k = if k.toNat = i then v else s.slot k := by
  simp [State.slot, Vector.get_eq_getElem, Vector.getElem_set, eq_comm]

theorem changesOnly_slot (s : State) (k : Nibble) (v : Word) :
    ChangesOnly (· = .slot k) s { s with stack := s.stack.set k.toNat v k.isLt } := by
  intro p hp
  cases p with
  | slot j =>
    have hne : ¬ j.toNat = k.toNat := fun h => hp (congrArg Part.slot (BitVec.eq_of_toNat_eq h))
    exact (State.slot_set s k.isLt v j).trans (if_neg hne)
  | _ => exact rfl

theorem State.byteAt_write {s : State} (h : s.mem.wf s.cfg = true) (a k : Nat) (b : Byte) :
    ({ s with mem := s.mem.write s.cfg a b } : State).byteAt k = if k = a then b else s.byteAt k :=
  Memory.read_write h a k b

theorem changesOnly_byte {s : State} (h : s.mem.wf s.cfg = true) (a : Nat) (b : Byte) :
    ChangesOnly (· = .byte a) s { s with mem := s.mem.write s.cfg a b } := by
  intro p hp
  cases p with
  | byte k =>
    have hne : ¬ k = a := fun h => hp (congrArg Part.byte h)
    simp only [Part.same, State.memRead, State.byteAt_write h, hne, if_false]
  | _ => exact rfl

end Sys2Proof.Machine
end
section
/-! The well-formed states of 10_state.md R35: O20, O21, O22. -/

namespace Sys2Proof.Machine

/-- All bounds of a well-formed state but two are the widths of its fields. -/
theorem State.wf_iff {s : State} : s.wf ↔ s.FAULT.kind.toNat ≤ 6 ∧ s.mem.wf s.cfg = true := by
  constructor
  · rintro ⟨-, -, -, -, -, -, hk, hm⟩
    exact ⟨hk, hm⟩
  · rintro ⟨hk, hm⟩
    exact ⟨Nat.le_of_lt_succ s.SP.isLt, s.I.isLt, fun x => (s.readV x).isLt, s.DT.isLt, s.ST.isLt,
      fun k => (s.slot k).isLt, hk, hm⟩

/-- Well-formedness reads the error register, memory and the configuration alone. -/
theorem State.wf_congr {s t : State} (hs : s.wf) (hf : t.FAULT = s.FAULT) (hm : t.mem = s.mem) (hc : t.cfg = s.cfg) :
    t.wf := by
  rw [State.wf_iff] at hs ⊢
  rwa [hf, hm, hc]

theorem State.wf_raise {s : State} (hs : s.wf) (e : Trap) : (s.raise e).wf :=
  State.wf_iff.mpr ⟨ErrorKind.code_le_six e.kind, (State.wf_iff.mp hs).2⟩

theorem State.wf_reset_with_mem {c : Config} {m : Memory} {ds : List Byte} {n : Nat} (hm : m.wf c = true) :
    ({ State.resetOf c with draws := ds, drawCount := n, mem := m } : State).wf :=
  State.wf_iff.mpr ⟨Nat.zero_le 6, hm⟩

/-- Settles O20: a step leaves the state, latches an error whose code is at most 6, or commits, which keeps memory, the
configuration and FAULT. -/
theorem stepKeepsWellFormedStates : Obligations.StepKeepsWellFormedStates := by
  intro s t hs h
  rcases step_cases s with ⟨_, h'⟩ | ⟨_, e, h', _⟩ | ⟨_, w, i, u, _, _, _, hkept, h'⟩
  · cases h'.symm.trans h; exact hs
  · cases h'.symm.trans h
    exact State.wf_congr (State.wf_raise hs e) (by simp) (by simp) (by simp)
  · cases h'.symm.trans h
    obtain ⟨hmem, _, _, hfault, hcfg, _, _⟩ := hkept
    exact State.wf_congr hs (by simpa using hfault) (by simpa using hmem) (by simpa using hcfg)

/-- Settles O21: reset clears FAULT and lists no byte of memory. -/
theorem resetStateIsWellFormed : Obligations.ResetStateIsWellFormed := fun c =>
  State.wf_iff.mpr ⟨Nat.zero_le 6, Memory.wf_nil c⟩

theorem dbgWrite_keeps_wf {f : DbgField} {v : BitVec f.width} {s t : State} (hs : s.wf) (h : dbgWrite f v s = some t) :
    t.wf := by
  obtain ⟨hk, hm⟩ := State.wf_iff.mp hs
  exact State.wf_iff.mpr ⟨by rwa [dbgWrite_FAULT h], dbgWrite_mem_wf hm h⟩

/-- Settles O22: the step by O20, and every other transaction by what it can leave of the block. -/
theorem transactionsKeepWellFormedStates : Obligations.TransactionsKeepWellFormedStates := by
  constructor
  · intro x b b' r hb h
    rcases transact_cases h with ⟨rnd, t, ht, hb'⟩ | ⟨m, hb', hm, _⟩ | ⟨f, v, hw⟩ | hb'
    · rw [hb']
      have htw : t.wf := stepKeepsWellFormedStates { b.state with draws := rnd :: b.state.draws } t
        (State.wf_congr hb rfl rfl rfl) ht
      exact State.wf_congr htw rfl rfl rfl
    · rw [hb']; exact State.wf_reset_with_mem hm
    · exact dbgWrite_keeps_wf hb hw
    · rwa [hb']
  · intro s p hs hk hp
    refine ⟨State.wf_congr hs rfl rfl rfl, ?_⟩
    obtain ⟨e, he⟩ := State.fetchWord_error_of_gt (s := s.setPc p) hp
    refine ⟨_, step_of_fetch_error hk he, ?_⟩
    simp [Trap.status, State.fetchWord_error_kind he, ErrorKind.code]

end Sys2Proof.Machine
end

section
/-! The bounds of `pc` and of return addresses (10_state.md R26, 40_control_flow.md R111): O23. -/

namespace Sys2Proof.Machine

theorem State.indexedTarget_le (s : State) (nnn : Addr) : (s.indexedTarget nnn).toNat ≤ 0x10FE := by
  have hv : (s.readV 0).toNat < 256 := (s.readV 0).isLt
  have hn : nnn.toNat < 4096 := nnn.isLt
  simp only [State.indexedTarget, BitVec.toNat_add, BitVec.toNat_setWidth]
  omega

theorem absoluteTarget_lt (nnn : Addr) : (absoluteTarget nnn).toNat < 4096 := by
  have hn : nnn.toNat < 4096 := nnn.isLt
  simp only [absoluteTarget, BitVec.toNat_setWidth]
  omega

/-- The advance of an instruction that could be fetched. -/
theorem State.advance_pc_le {s : State} (h : s.pc.toNat ≤ 0xFFE) : s.advance.pc.toNat ≤ 0x1000 := by
  rw [State.advance_pc]
  bv_omega

theorem State.skipIf_pc_le {s : State} (h : s.pc.toNat ≤ 0x1000) (c : Bool) : (s.skipIf c).pc.toNat ≤ 0x10FE := by
  rw [State.skipIf_pc]
  split
  · bv_omega
  · omega

/-- The slot a pop reads is one of the sixteen. -/
theorem State.topSlot_eq_slot (s : State) : s.topSlot = s.slot (BitVec.ofNat 4 (s.SP.val - 1)) := by
  have hlt : (s.SP.val - 1) % 16 = s.SP.val - 1 := Nat.mod_eq_of_lt (by omega)
  simp [State.topSlot, State.slot, Vector.get_eq_getElem, hlt]

theorem exec_pc_le {i : Instr} {s t : State} (hs : s.addressesBounded) (hpc : s.pc.toNat ≤ 0xFFE)
    (h : exec i s = .next t) : t.pc.toNat ≤ 0x10FE := by
  obtain ⟨hb, hslots⟩ := hs
  have hadv := State.advance_pc_le hpc
  have hadv' : s.advance.pc.toNat ≤ 0x10FE := by omega
  cases i with
  | ret x =>
    rcases exec_ret_cases (s := s) x with ⟨e, he⟩ | hw
    · cases he.symm.trans h; exact hb
    · cases hw.symm.trans h
      rw [State.setPc_pc, State.topSlot_eq_slot]
      exact (hslots _).trans (by decide)
  | call nnn =>
    rcases exec_call_cases (s := s) nnn with ⟨e, he⟩ | ⟨_, hw⟩
    · cases he.symm.trans h; exact hb
    · cases hw.symm.trans h
      have := absoluteTarget_lt nnn
      rw [State.setPc_pc]; omega
  | drw x y n =>
    rcases exec_drw_cases (s := s) x y n with ⟨e, he⟩ | ⟨fb, b, hw⟩
    · cases he.symm.trans h; exact hb
    · cases hw.symm.trans h; exact hadv'
  | subn x y =>
    rcases exec_subn_cases (s := s) x y with ⟨d, b, hw⟩ | ⟨d, b, hw⟩ <;> cases hw.symm.trans h <;> exact hadv'
  | jp nnn =>
    cases h
    have := absoluteTarget_lt nnn
    rw [State.setPc_pc]; omega
  | jpV0 nnn => cases h; exact State.indexedTarget_le s nnn
  | seImm x nn => cases h; exact State.skipIf_pc_le hadv _
  | sneImm x nn => cases h; exact State.skipIf_pc_le hadv _
  | seReg x y n => cases h; exact State.skipIf_pc_le hadv _
  | _ => cases h; exact hadv'

theorem exec_slot_le {i : Instr} {s t : State} (hs : s.addressesBounded) (hpc : s.pc.toNat ≤ 0xFFE)
    (h : exec i s = .next t) (k : Nibble) : (t.slot k).toNat ≤ 0x1000 := by
  obtain ⟨_, hslots⟩ := hs
  by_cases hc : ∃ nnn, i = .call nnn
  · obtain ⟨nnn, rfl⟩ := hc
    rcases exec_call_cases (s := s) nnn with ⟨e, he⟩ | ⟨hlt, hw⟩
    · cases he.symm.trans h; exact hslots k
    · cases hw.symm.trans h
      have hset : ((s.advance.pushed (s.pc + 2) hlt).setPc (absoluteTarget nnn)).slot k =
          if k.toNat = s.SP.val then s.advance.pc else s.slot k := State.slot_set s hlt (s.pc + 2) k
      rw [hset]
      split
      · exact State.advance_pc_le hpc
      · exact hslots k
  · have hstack : t.stack = s.stack := (exec_writesOnlyOwn h).stack fun nnn hi => hc ⟨nnn, hi⟩
    rw [State.slot, hstack]
    exact hslots k

/-- Settles O23: a fetched instruction has `pc` at most 0xFFE, so its advance is at most 0x1000 (the largest return
address), a skip adds 2 more, and BNNN's sum is at most 0xFF + 0xFFF. -/
theorem stepKeepsAddressesBounded : Obligations.StepKeepsAddressesBounded := by
  intro s t hs h
  rcases step_cases s with ⟨_, h'⟩ | ⟨_, e, h', _⟩ | ⟨_, w, i, u, hf, _, he, _, h'⟩
  · cases h'.symm.trans h; exact hs
  · cases h'.symm.trans h
    simpa [State.addressesBounded, State.slot] using hs
  · cases h'.symm.trans h
    have hpc := State.pc_le_of_fetchWord_ok hf
    have hu : u.addressesBounded := ⟨exec_pc_le hs hpc he, exec_slot_le hs hpc he⟩
    simpa [State.addressesBounded, State.slot] using hu

end Sys2Proof.Machine
end

section
/-! What instructions write, and who sees the draw: O17, O18, O19. -/

namespace Sys2Proof.Machine

/-- No instruction, committing or raising, writes memory, the timers, the configuration or the draw inputs. -/
theorem exec_keeps {i : Instr} {s t : State} (h : exec i s = .next t) :
    t.mem = s.mem ∧ t.DT = s.DT ∧ t.ST = s.ST ∧ t.cfg = s.cfg ∧ t.draws = s.draws ∧ t.drawCount = s.drawCount := by
  rcases exec_cases i s with ⟨w, hw, hmem, hDT, hST, _, hcfg, hdraws, hcount⟩ | ⟨e, he, _⟩
  · cases hw.symm.trans h
    exact ⟨hmem, hDT, hST, hcfg, hdraws, hcount⟩
  · cases he.symm.trans h
    exact ⟨rfl, rfl, rfl, rfl, rfl, rfl⟩

/-- Settles O17: `exec_writesOnlyOwn`, read from the change to the instruction, and `exec_keeps`. -/
theorem stateIsWrittenOnlyByItsInstructions : Obligations.StateIsWrittenOnlyByItsInstructions := by
  intro i s t h
  have hw := exec_writesOnlyOwn h
  refine ⟨fun x hx => by_contra fun hn => hx (hw.readV x hn), fun hI => ?_, fun hSP => ?_, fun hst => ?_,
    fun hFB => ?_, exec_keeps h⟩
  · by_contra hn
    exact hI (hw.I fun nnn hi => hn ⟨nnn, hi⟩)
  · by_contra hn
    exact hSP (hw.SP (fun x hi => hn (.inl ⟨x, hi⟩)) fun nnn hi => hn (.inr ⟨nnn, hi⟩))
  · by_contra hn
    exact hst (hw.stack fun nnn hi => hn ⟨nnn, hi⟩)
  · by_contra hn
    exact hFB (hw.FB (fun x hi => hn (.inl ⟨x, hi⟩)) fun x y n hi => hn (.inr ⟨x, y, n, hi⟩))

/-- The state with other draw inputs. -/
def State.withDraws (s : State) (ds : List Byte) (c : Nat) : State := { s with draws := ds, drawCount := c }

theorem State.withDraws_skipIf (s : State) (ds : List Byte) (c : Nat) (q : Bool) :
    (s.skipIf q).withDraws ds c = (s.withDraws ds c).skipIf q := by cases q <;> rfl

/-- Settles O18: only the operand of RND reads the draw inputs, so in each other case both states take the same branch. -/
theorem onlyRndDependsOnTheDraw : Obligations.OnlyRndDependsOnTheDraw := by
  intro i s t ds c hi h
  change exec i (s.withDraws ds c) = .next (t.withDraws ds c)
  cases i with
  | rnd x nn => exact absurd rfl (hi x nn)
  | ret x =>
    by_cases hSP : s.SP.val = 0
    · cases (exec_ret_empty x hSP).symm.trans h
      exact exec_ret_empty (s := s.withDraws ds c) x hSP
    · cases (exec_ret_ok x hSP).symm.trans h
      exact exec_ret_ok (s := s.withDraws ds c) x hSP
  | call nnn =>
    by_cases hSP : s.SP.val = 16
    · cases (exec_call_full nnn hSP).symm.trans h
      exact exec_call_full (s := s.withDraws ds c) nnn hSP
    · have hlt : s.SP.val < 16 := by omega
      cases (exec_call_ok nnn hlt).symm.trans h
      exact exec_call_ok (s := s.withDraws ds c) nnn hlt
  | drw x y n =>
    cases hc : s.cfg.drawReferenceFault with
    | true =>
      cases (exec_drw_reference x y n hc).symm.trans h
      exact exec_drw_reference (s := s.withDraws ds c) x y n hc
    | false =>
      rcases Nat.lt_or_ge 4096 (s.I.toNat + n.toNat) with hI | hI
      · cases (exec_drw_outside x y n hc hI).symm.trans h
        exact exec_drw_outside (s := s.withDraws ds c) x y n hc hI
      · cases (exec_drw_ok x y n hc hI).symm.trans h
        exact exec_drw_ok (s := s.withDraws ds c) x y n hc hI
  | subn x y =>
    cases ho : s.cfg.subnFlagOrder with
    | before =>
      cases (exec_subn_before x y ho).symm.trans h
      exact exec_subn_before (s := s.withDraws ds c) x y ho
    | after =>
      cases (exec_subn_after x y ho).symm.trans h
      exact exec_subn_after (s := s.withDraws ds c) x y ho
  | seImm x nn => cases h; rw [State.withDraws_skipIf]; rfl
  | sneImm x nn => cases h; rw [State.withDraws_skipIf]; rfl
  | seReg x y n => cases h; rw [State.withDraws_skipIf]; rfl
  | _ => cases h; rfl

/-- The port `tick(rnd)` at a CXNN: the masked draw in `V[x]`, the advance and the timers. -/
theorem tick_rnd {s : State} {w : Word} {x : Nibble} {nn : Byte} (rnd : Byte) (hk : s.FAULT.kind = 0)
    (hf : s.fetchWord = .ok w) (hd : decode w = .ok (.rnd x nn)) :
    tick rnd s = .next ((s.advance.setV x (rnd &&& nn)).tickTimers, .ok) := by
  have hstep := step_of_exec (s := { s with draws := rnd :: s.draws }) hk hf hd (exec_rnd _ x nn) hk
  exact tick_ok_of_step hstep (by simpa using hk)

/-- Settles O19: the frame is that of `setV`, the advance and the timers. -/
theorem tickGivesItsDrawToRnd : Obligations.TickGivesItsDrawToRnd := by
  intro s rnd w x nn hk hf hd
  refine ⟨_, tick_rnd rnd hk hf hd, by simp, by simp, ?_⟩
  have hpc := changesOnly_setPc s (s.pc + 2)
  have hV := changesOnly_setV s.advance x (rnd &&& nn)
  have htimers := changesOnly_tickTimers (s.advance.setV x (rnd &&& nn))
  exact ((hpc.mono fun p hp => by simp [hp]).trans (hV.mono fun p hp => by simp [hp])).trans
    (htimers.mono fun p hp => by rcases hp with rfl | rfl <;> simp)

end Sys2Proof.Machine
end
section
/-! What FAULT can hold, and how a latched error leaves it: O25, O52, O54. -/

namespace Sys2Proof.Machine

/-- The coherence of FAULT reads FAULT and the configuration alone. -/
theorem State.faultCoherent_congr {s t : State} (hs : s.faultCoherent) (hf : t.FAULT = s.FAULT) (hc : t.cfg = s.cfg) :
    t.faultCoherent := by
  unfold State.faultCoherent at hs ⊢
  rwa [hf, hc]

/-- An error a tick can raise has a code a tick can leave in FAULT. -/
theorem RaisedByTick.faultCoherent {s : State} {e : Trap} (h : RaisedByTick s e) : (s.raise e).faultCoherent := by
  obtain ⟨kind, info⟩ := e
  obtain ⟨hrom, hnot⟩ := h
  cases kind with
  | romTooLarge => exact absurd rfl hrom
  | notImplemented => simpa [State.faultCoherent, Trap.status, ErrorKind.code] using hnot rfl
  | _ => simp [State.faultCoherent, Trap.status, ErrorKind.code]

/-- Settles O25: a step leaves FAULT, or latches an error that `step_cases` bounds by `RaisedByTick`. -/
theorem stepKeepsFaultCoherent : Obligations.StepKeepsFaultCoherent := by
  refine ⟨fun s t hs h => ?_, fun c => by simp [State.faultCoherent, State.resetOf]⟩
  rcases step_cases s with ⟨_, h'⟩ | ⟨_, e, h', hr⟩ | ⟨_, w, i, u, _, _, _, hkept, h'⟩
  · cases h'.symm.trans h; exact hs
  · cases h'.symm.trans h
    exact State.faultCoherent_congr hr.faultCoherent (by simp) (by simp)
  · cases h'.symm.trans h
    obtain ⟨_, _, _, hfault, hcfg, _, _⟩ := hkept
    exact State.faultCoherent_congr hs (by simpa using hfault) (by simpa using hcfg)

/-- Settles O52: a latched tick changes nothing and no other transaction but reset and load touches FAULT. -/
theorem onlyResetAndLoadClearTheFault : Obligations.OnlyResetAndLoadClearTheFault := by
  intro x b b' r hk h hne
  rcases transact_cases h with ⟨rnd, t, ht, hb'⟩ | ⟨m, hb', _, hx⟩ | ⟨f, v, hw⟩ | hb'
  · have hl : ({ b.state with draws := rnd :: b.state.draws } : State).latched = true := by
      simpa [State.latched] using hk
    cases (step_of_latched hl).symm.trans ht
    exact absurd (by rw [hb']) hne
  · exact ⟨by rw [hb']; rfl, hx⟩
  · exact absurd (dbgWrite_FAULT hw) hne
  · exact absurd (by rw [hb']) hne

theorem State.tickReply_eq_ok_iff {t : State} : t.tickReply = .ok ↔ t.FAULT.kind = 0 := by
  refine ⟨fun h => ?_, State.tickReply_of_ok⟩
  by_contra hk
  cases (State.tickReply_of_error hk).symm.trans h

/-- Settles O54: the step uses up its draw, so restoring the other draws changes nothing. -/
theorem tickHandsBackTheErrorItRaised : Obligations.TickHandsBackTheErrorItRaised := by
  intro s rnd hk
  obtain ⟨t, ht⟩ := step_answers { s with draws := rnd :: s.draws }
  obtain ⟨hdraws, hcount⟩ := step_draws_of_cons (s := { s with draws := rnd :: s.draws }) hk rfl ht
  have htick : tick rnd s = .next (t, t.tickReply) := by
    rw [tick_of_step ht, ← hdraws]
  exact ⟨t, t.tickReply, ht, hdraws, hcount, htick, transact_tick htick, State.tickReply_eq_ok_iff,
    State.tickReply_of_error⟩

end Sys2Proof.Machine
end

section
/-! The ports: O50, O51, O55. -/

namespace Sys2Proof.Machine

/-- The part of the state a field of the debug port names. -/
def DbgField.part : DbgField → Part
  | .mem a => .byte a.toNat
  | .V x => .V x
  | .I => .I
  | .pc => .pc
  | .SP => .SP
  | .stack k => .slot k
  | .DT => .DT
  | .ST => .ST
  | .FB x y => .pixel x y
  | .FAULT => .FAULT

theorem DbgField.part_injective {f g : DbgField} (h : f.part = g.part) : f = g := by
  cases f with
  | mem a =>
    cases g with
    | mem a' => exact congrArg DbgField.mem (BitVec.eq_of_toNat_eq (Part.byte.inj h))
    | _ => cases h
  | _ =>
    cases g <;> cases h
    rfl

/-- No field of the port names the configuration or a draw input (log 1, log 3). -/
theorem DbgField.part_ne_input (f : DbgField) : Part.cfg ≠ f.part ∧ Part.draws ≠ f.part ∧ Part.drawCount ≠ f.part := by
  cases f <;> simp [DbgField.part]

theorem memRead_eq_dbgRead (s : State) (a : Addr) : s.memRead a.toNat = .ok (dbgRead (.mem a) s) :=
  State.memRead_ok a.isLt

/-- `dbg_read` reads the named part and nothing else. -/
theorem dbgRead_congr {s t : State} {g : DbgField} (h : g.part.same s t) : dbgRead g t = dbgRead g s := by
  cases g with
  | mem a =>
    have hok : Except.ok (dbgRead (.mem a) t) = Except.ok (dbgRead (.mem a) s) :=
      (memRead_eq_dbgRead t a).symm.trans (Eq.trans h (memRead_eq_dbgRead s a))
    exact Except.ok.inj hok
  | SP => exact congrArg (fun k : Fin 17 => BitVec.ofNat 5 k.val) h
  | FB x y => exact congrArg BitVec.ofBool h
  | FAULT => exact congrArg (fun q : FaultStatus => q.kind ++ q.info) h
  | _ => exact h

/-- An accepted write changes the named part alone. -/
theorem dbgWrite_changesOnly {f : DbgField} {v : BitVec f.width} {s t : State} (hm : s.mem.wf s.cfg = true)
    (h : dbgWrite f v s = some t) : ChangesOnly (· = f.part) s t := by
  cases f with
  | mem a => cases h; exact changesOnly_byte hm a.toNat v
  | V x => cases h; exact changesOnly_setV s x v
  | I => cases h; exact changesOnly_setI s v
  | pc => cases h; exact changesOnly_setPc s v
  | SP => obtain ⟨_, rfl⟩ := dbgWrite_SP h; exact changesOnly_SP s _
  | stack k => cases h; exact changesOnly_slot s k v
  | DT => cases h; exact changesOnly_DT s v
  | ST => cases h; exact changesOnly_ST s v
  | FB x y => cases h; exact changesOnly_setPixel s x y _
  | FAULT => cases h

/-- A one-bit value is its bit 0. -/
theorem ofBool_getLsbD_zero (v : BitVec 1) : BitVec.ofBool (v.getLsbD 0) = v := by
  revert v; decide

/-- An accepted write is read back. -/
theorem dbgRead_dbgWrite {f : DbgField} {v : BitVec f.width} {s t : State} (hm : s.mem.wf s.cfg = true)
    (h : dbgWrite f v s = some t) : dbgRead f t = v := by
  cases f with
  | mem a => cases h; exact (State.byteAt_write hm a.toNat a.toNat v).trans (if_pos rfl)
  | V x => cases h; exact State.readV_setV_self s x v
  | SP => obtain ⟨_, rfl⟩ := dbgWrite_SP h; exact (BitVec.ofNat_toNat 5 v).trans (BitVec.setWidth_eq v)
  | stack k => cases h; exact (State.slot_set s k.isLt v k).trans (if_pos rfl)
  | FB x y =>
    cases h
    exact (congrArg BitVec.ofBool ((Framebuffer.pixel_setPixel s.FB x x y y _).trans (if_pos ⟨rfl, rfl⟩))).trans
      (ofBool_getLsbD_zero v)
  | FAULT => cases h
  | _ => cases h; rfl

theorem dbgWrite_eq_none_iff (f : DbgField) (v : BitVec f.width) (s : State) :
    dbgWrite f v s = none ↔ f = .FAULT ∨ (f = .SP ∧ 16 < v.toNat) := by
  cases f with
  | SP =>
    simp only [dbgWrite]
    split
    · simp; omega
    · simp; omega
  | FAULT => simp [dbgWrite]
  | _ => simp [dbgWrite]

/-- Settles O50: an accepted write is read back, and its frame is the one part its field names. -/
theorem debugPortWritesOneField : Obligations.DebugPortWritesOneField := by
  refine ⟨fun f v s t hm h => ?_, dbgWrite_eq_none_iff⟩
  have hframe := dbgWrite_changesOnly hm h
  obtain ⟨hcfg, hdraws, hcount⟩ := f.part_ne_input
  exact ⟨dbgRead_dbgWrite hm h, fun g hg => dbgRead_congr (hframe g.part fun hp => hg (DbgField.part_injective hp)),
    hframe .cfg hcfg, hframe .draws hdraws, hframe .drawCount hcount, dbgWrite_mem_wf hm h⟩

/-- Settles O51: each transaction by its own rule. -/
theorem ticksAreAdmittedAfterResetOrLoad : Obligations.TicksAreAdmittedAfterResetOrLoad := by
  intro s
  refine ⟨fun _ => rfl, fun _ => rfl, fun b data hd => ?_, fun b data hd => ⟨_, transact_load_of_tooLong s b hd⟩,
    fun rnd => ?_, fun _ _ _ => rfl, fun _ _ => rfl, fun _ => rfl⟩
  · obtain ⟨m, hl, _⟩ := load_fits s hd
    exact ⟨_, transact_load_of_fits b hl⟩
  · obtain ⟨t, ht⟩ := step_answers { s with draws := rnd :: s.draws }
    exact ⟨_, _, transact_tick (tick_of_step ht)⟩

theorem toNat_dbgRead_SP (s : State) : (dbgRead .SP s).toNat = s.SP.val := by
  have hlt : s.SP.val < 2 ^ 5 := by have := s.SP.isLt; omega
  exact (BitVec.toNat_ofNat _ _).trans (Nat.mod_eq_of_lt hlt)

/-- FAULT is read with its kind in the top bits and its info in the low sixteen. -/
theorem dbgRead_FAULT_fields (s : State) :
    BitVec.extractLsb' 16 3 (dbgRead .FAULT s) = s.FAULT.kind ∧
    BitVec.extractLsb' 0 16 (dbgRead .FAULT s) = s.FAULT.info :=
  ⟨BitVec.extractLsb'_append_eq_left, BitVec.extractLsb'_append_eq_right⟩

theorem transact_dbgWrite_some {f : DbgField} {v : BitVec f.width} {s t : State} (b : Bool)
    (h : dbgWrite f v s = some t) : transact (.dbgWrite f v) ⟨s, b⟩ = .next (⟨t, b⟩, .ok) := by
  simp [transact, h]

theorem transact_dbgWrite_none {f : DbgField} {v : BitVec f.width} {s : State} (b : Bool)
    (h : dbgWrite f v s = none) : transact (.dbgWrite f v) ⟨s, b⟩ = .next (⟨s, b⟩, .notWritten) := by
  simp [transact, h]

theorem toNat_dbgRead_FB (s : State) (c : Column) (r : Row) :
    (dbgRead (.FB c r) s).toNat = if s.pixel c r then 1 else 0 := by
  change (BitVec.ofBool (s.pixel c r)).toNat = _
  cases s.pixel c r <;> rfl

/-- Settles O55: one rule for each field whose answer is coded, and the two answers of a write. -/
theorem debugPortAnswersTheNamedField : Obligations.DebugPortAnswersTheNamedField := by
  intro s
  obtain ⟨hkind, hinfo⟩ := dbgRead_FAULT_fields s
  exact ⟨memRead_eq_dbgRead s, fun _ => rfl, rfl, rfl, toNat_dbgRead_SP s, fun _ => rfl, rfl, rfl,
    toNat_dbgRead_FB s, hkind, hinfo, fun b _ _ _ => transact_dbgWrite_some b,
    fun b _ _ => transact_dbgWrite_none b⟩

end Sys2Proof.Machine
end

section
/-! The return stack: O29. -/

namespace Sys2Proof.Machine

/-- Settles O29: the push stores at slot SP and the pop reads the same slot, which keeps the value. -/
theorem popReturnsThePushedAddress : Obligations.PopReturnsThePushedAddress := by
  intro s A B v hlt
  have hk : (BitVec.ofNat 4 s.SP.val).toNat = s.SP.val := (BitVec.toNat_ofNat _ _).trans (Nat.mod_eq_of_lt hlt)
  have hpushed : (s.pushed v hlt).popped = { s with stack := s.stack.set s.SP.val v hlt } := rfl
  have htop : (s.pushed v hlt).topSlot = v := by
    simp [State.topSlot, State.pushed, Vector.get_eq_getElem]
  refine ⟨s.pushed v hlt, (s.pushed v hlt).popped, State.push_eq_pushed hlt, ?_, rfl, ?_, ?_⟩
  · rw [State.pop_eq_popped (s := s.pushed v hlt) (Nat.succ_ne_zero _), htop]
  · exact (State.slot_set s hlt v _).trans (if_pos hk)
  · have hframe := changesOnly_slot s (BitVec.ofNat 4 s.SP.val) v
    simpa only [hpushed, hk] using hframe

end Sys2Proof.Machine
end

section
/-! Memory: O16, O46, O53, O9. -/

namespace Sys2Proof.Machine

/-- No step, latched, raising or committing, writes memory or the configuration. -/
theorem step_keeps_mem_cfg {s t : State} (h : step s = .next t) : t.mem = s.mem ∧ t.cfg = s.cfg := by
  rcases step_cases s with ⟨_, h'⟩ | ⟨_, e, h', _⟩ | ⟨_, w, i, u, _, _, _, hkept, h'⟩
  · cases h'.symm.trans h
    exact ⟨rfl, rfl⟩
  · cases h'.symm.trans h
    simp
  · cases h'.symm.trans h
    obtain ⟨hmem, _, _, _, hcfg, _, _⟩ := hkept
    simpa using ⟨hmem, hcfg⟩

/-- Settles O16: a read depends on memory and the configuration alone, and a step keeps both. -/
theorem noTickWritesMemory : Obligations.NoTickWritesMemory := by
  intro s t h
  obtain ⟨hmem, hcfg⟩ := step_keeps_mem_cfg h
  exact ⟨State.memRead_congr hmem hcfg, hmem, hcfg⟩

/-- Settles O46: inside memory by the read after a write, outside by the two refusals. -/
theorem memoryHoldsTheLastByteWritten : Obligations.MemoryHoldsTheLastByteWritten := by
  intro s a b hm
  refine ⟨fun ha => ⟨_, State.memWrite_ok b ha, ?_, Memory.wf_write hm ha, changesOnly_byte hm a b⟩,
    fun ha => ⟨State.memWrite_error b ha, State.memRead_error ha⟩⟩
  rw [State.memRead_ok ha, State.byteAt_write hm, if_pos rfl]

theorem highByte_wordOfBytes (hi lo : Byte) : highByte (wordOfBytes hi lo) = hi := BitVec.extractLsb'_append_eq_left

theorem lowByte_wordOfBytes (hi lo : Byte) : lowByte (wordOfBytes hi lo) = lo := BitVec.extractLsb'_append_eq_right

/-- Settles O9: the two bytes read make the fetched word, and the first address outside memory makes the error. -/
theorem fetchIsBigEndianUpToTheLastWord : Obligations.FetchIsBigEndianUpToTheLastWord := by
  intro s
  refine ⟨fun hpc => ?_, State.fetchWord_error_at_last, State.fetchWord_error_above⟩
  exact ⟨_, _, State.memRead_ok (show s.pc.toNat < 4096 by omega), State.memRead_ok (show s.pc.toNat + 1 < 4096 by omega),
    _, State.fetchWord_ok hpc, highByte_wordOfBytes _ _, lowByte_wordOfBytes _ _⟩

/-- The state with the bytes of `w` in memory at `a`, high byte first: what `placeWord` does to memory (log 8). -/
def State.storeWord (s : State) (a : Nat) (w : Word) : State :=
  { s with mem := (s.mem.write s.cfg a (highByte w)).write s.cfg (a + 1) (lowByte w) }

theorem State.byteAt_storeWord {s : State} {a : Nat} (hm : s.mem.wf s.cfg = true) (ha : a < 4096) (w : Word) (k : Nat) :
    (s.storeWord a w).byteAt k = if k = a + 1 then lowByte w else if k = a then highByte w else s.byteAt k := by
  have hhigh : (s.mem.write s.cfg a (highByte w)).wf s.cfg = true := Memory.wf_write hm ha
  exact (Memory.read_write hhigh (a + 1) k (lowByte w)).trans (by rw [Memory.read_write hm]; rfl)

theorem changesOnly_storeWord {s : State} {a : Nat} (hm : s.mem.wf s.cfg = true) (ha : a < 4096) (w : Word) :
    ChangesOnly (fun p => p = .byte a ∨ p = .byte (a + 1)) s (s.storeWord a w) := by
  have hhigh := changesOnly_byte hm a (highByte w)
  have hlow := changesOnly_byte (s := { s with mem := s.mem.write s.cfg a (highByte w) }) (Memory.wf_write hm ha)
    (a + 1) (lowByte w)
  exact (hhigh.mono fun _ => .inl).trans (hlow.mono fun _ => .inr)

/-- A fetch at the address where a word was stored reads that word (20_memory.md R64). -/
theorem State.fetchWord_storeWord {s : State} (hm : s.mem.wf s.cfg = true) (hpc : s.pc.toNat ≤ 0xFFE) (w : Word) :
    (s.storeWord s.pc.toNat w).fetchWord = .ok w := by
  have hlt : s.pc.toNat < 4096 := by omega
  have hhigh : (s.storeWord s.pc.toNat w).byteAt s.pc.toNat = highByte w := by
    simp [State.byteAt_storeWord hm hlt]
  have hlow : (s.storeWord s.pc.toNat w).byteAt (s.pc.toNat + 1) = lowByte w := by
    simp [State.byteAt_storeWord hm hlt]
  calc (s.storeWord s.pc.toNat w).fetchWord
      = .ok (wordOfBytes ((s.storeWord s.pc.toNat w).byteAt s.pc.toNat)
          ((s.storeWord s.pc.toNat w).byteAt (s.pc.toNat + 1))) :=
        State.fetchWord_ok (s := s.storeWord s.pc.toNat w) hpc
    _ = .ok w := by rw [hhigh, hlow, wordOfBytes_bytes]

/-- The state `placeWord` stores the word in: no error latched, and `pc` where a fetch can read. -/
def State.readyToFetch (s : State) : State :=
  { s with pc := if s.pc.toNat ≤ 0xFFE then s.pc else 0x200, FAULT := ⟨0, 0⟩ }

theorem State.placeWord_eq (s : State) (w : Word) :
    s.placeWord w = s.readyToFetch.storeWord s.readyToFetch.pc.toNat w := rfl

theorem State.readyToFetch_pc_le (s : State) : s.readyToFetch.pc.toNat ≤ 0xFFE := by
  unfold State.readyToFetch
  split
  · assumption
  · simp

theorem State.readyToFetch_eq_self {s : State} (hf : s.FAULT = ⟨0, 0⟩) (hpc : s.pc.toNat ≤ 0xFFE) :
    s.readyToFetch = s := by
  unfold State.readyToFetch
  rw [if_pos hpc, ← hf]

theorem State.withFetchWord_16 (s : State) {w : Nat} (hw : w < 65536) :
    s.withFetchWord 16 w = s.placeWord (BitVec.ofNat 16 w) :=
  congrArg (fun k => s.placeWord (BitVec.ofNat 16 k)) (Nat.mod_eq_of_lt hw)

/-- Settles O53: the word is stored where a state ready to fetch has `pc`, and a state that is ready already is left as
it is but for the two bytes. -/
theorem placedWordIsFetchedNext : Obligations.PlacedWordIsFetchedNext := by
  intro s w hm hw
  rw [State.withFetchWord_16 s hw, State.placeWord_eq]
  refine ⟨rfl, State.fetchWord_storeWord (s := s.readyToFetch) hm s.readyToFetch_pc_le _, fun hf hpc => ?_⟩
  rw [State.readyToFetch_eq_self hf hpc]
  exact changesOnly_storeWord hm (by omega) _

end Sys2Proof.Machine
end

section
/-! The encoding (30_encoding.md R82, R90, R95): O3, O4, O5, O6, O1, O2. -/

namespace Sys2Proof

open Machine

/-! ### The row of an instruction decides how its words decode -/

/-- The word of an instruction stands in the instruction's row (the family RowOfEncoding, for every instruction). -/
theorem encode_in_opcodeRow : ∀ i : Instr, Laws.RowOfEncoding.Statement i
  | .cls x => Laws.RowOfEncoding.cls x
  | .ret x => Laws.RowOfEncoding.ret x
  | .jp nnn => Laws.RowOfEncoding.jp nnn
  | .call nnn => Laws.RowOfEncoding.call nnn
  | .seImm x nn => Laws.RowOfEncoding.seImm x nn
  | .sneImm x nn => Laws.RowOfEncoding.sneImm x nn
  | .seReg x y n => Laws.RowOfEncoding.seReg x y n
  | .ldImm x nn => Laws.RowOfEncoding.ldImm x nn
  | .addImm x nn => Laws.RowOfEncoding.addImm x nn
  | .ldReg x y => Laws.RowOfEncoding.ldReg x y
  | .orReg x y => Laws.RowOfEncoding.orReg x y
  | .andReg x y => Laws.RowOfEncoding.andReg x y
  | .xorReg x y => Laws.RowOfEncoding.xorReg x y
  | .addReg x y => Laws.RowOfEncoding.addReg x y
  | .sub x y => Laws.RowOfEncoding.sub x y
  | .shr x y => Laws.RowOfEncoding.shr x y
  | .subn x y => Laws.RowOfEncoding.subn x y
  | .shl x y => Laws.RowOfEncoding.shl x y
  | .ldI nnn => Laws.RowOfEncoding.ldI nnn
  | .jpV0 nnn => Laws.RowOfEncoding.jpV0 nnn
  | .rnd x nn => Laws.RowOfEncoding.rnd x nn
  | .drw x y n => Laws.RowOfEncoding.drw x y n

/-- The instruction of the same row whose operands are the fields of `w`. -/
def Instr.withOperandsOf (w : Word) : Instr → Instr
  | .cls _ => .cls (splitWord w).x
  | .ret _ => .ret (splitWord w).x
  | .jp _ => .jp (splitWord w).nnn
  | .call _ => .call (splitWord w).nnn
  | .seImm _ _ => .seImm (splitWord w).x (splitWord w).nn
  | .sneImm _ _ => .sneImm (splitWord w).x (splitWord w).nn
  | .seReg _ _ _ => .seReg (splitWord w).x (splitWord w).y (splitWord w).n
  | .ldImm _ _ => .ldImm (splitWord w).x (splitWord w).nn
  | .addImm _ _ => .addImm (splitWord w).x (splitWord w).nn
  | .ldReg _ _ => .ldReg (splitWord w).x (splitWord w).y
  | .orReg _ _ => .orReg (splitWord w).x (splitWord w).y
  | .andReg _ _ => .andReg (splitWord w).x (splitWord w).y
  | .xorReg _ _ => .xorReg (splitWord w).x (splitWord w).y
  | .addReg _ _ => .addReg (splitWord w).x (splitWord w).y
  | .sub _ _ => .sub (splitWord w).x (splitWord w).y
  | .shr _ _ => .shr (splitWord w).x (splitWord w).y
  | .subn _ _ => .subn (splitWord w).x (splitWord w).y
  | .shl _ _ => .shl (splitWord w).x (splitWord w).y
  | .ldI _ => .ldI (splitWord w).nnn
  | .jpV0 _ => .jpV0 (splitWord w).nnn
  | .rnd _ _ => .rnd (splitWord w).x (splitWord w).nn
  | .drw _ _ _ => .drw (splitWord w).x (splitWord w).y (splitWord w).n

theorem opcodeRow_withOperandsOf (w : Word) (i : Instr) : opcodeRow (i.withOperandsOf w) = opcodeRow i := by
  cases i <;> rfl

/-- A word in the row of `i` decodes to the instruction of that row with the word's own fields: the mask fixes the
family nibble, and in the families 0x0 and 0x8 the secondary key as well. -/
theorem decodesAs_opcodeRow (i : Instr) : DecodesAs (opcodeRow i).pattern (opcodeRow i).mask i.withOperandsOf := by
  intro w h
  cases i with
  | cls x | ret x =>
    obtain ⟨hf, hnn⟩ := fields_of_mask_nn h
    simp [decode, selectHandler, splitWord, hf, hnn, opcodeRow, Instr.withOperandsOf]
  | ldReg x y | orReg x y | andReg x y | xorReg x y | addReg x y | sub x y | shr x y | subn x y | shl x y =>
    obtain ⟨hf, hn⟩ := fields_of_mask_n h
    simp [decode, selectHandler, splitWord, hf, hn, opcodeRow, Instr.withOperandsOf]
  | _ =>
    have hf := family_of_mask h
    simp [decode, selectHandler, splitWord, hf, opcodeRow, Instr.withOperandsOf]

/-- The operands of an instruction are fields of its word. -/
theorem withOperandsOf_encode (i : Instr) : i.withOperandsOf (encode i) = i := by
  cases i <;> simp [Instr.withOperandsOf, encode, splitWord, fields_xyn, fields_xnn, fields_nnn]

/-- Settles O3: the word stands in the row of its instruction, whose decoder reads the operands back. -/
theorem decodeOfEncode : Obligations.DecodeOfEncode := by
  intro i
  obtain ⟨hrow, -⟩ := encode_in_opcodeRow i
  calc decode (encode i) = .ok (i.withOperandsOf (encode i)) := decodesAs_opcodeRow i _ (beq_iff_eq.mp hrow)
    _ = .ok i := by rw [withOperandsOf_encode]

/-! ### The fields of a word put together again -/

theorem splitWord_xyn (w : Word) :
    (splitWord w).f ++ (splitWord w).x ++ (splitWord w).y ++ (splitWord w).n = w :=
  (word_eq_nibbles w).symm

theorem splitWord_xnn (w : Word) : (splitWord w).f ++ (splitWord w).x ++ (splitWord w).nn = w :=
  calc (splitWord w).f ++ (splitWord w).x ++ (splitWord w).nn
      = w.extractLsb' 8 8 ++ (splitWord w).nn :=
        congrArg (· ++ (splitWord w).nn) (BitVec.extractLsb'_append_extractLsb'_eq_extractLsb' (x := w) rfl)
    _ = w := wordOfBytes_bytes w

theorem splitWord_nnn (w : Word) : (splitWord w).f ++ (splitWord w).nnn = w :=
  (BitVec.extractLsb'_append_extractLsb'_eq_extractLsb' (x := w) rfl).trans BitVec.extractLsb'_eq_self

/-- Settles O4: in each arm of the dispatcher the family nibble and the key are those the encoder writes, and the fields
of a word put together are the word. -/
theorem encodeOfDecode : Obligations.EncodeOfDecode := by
  intro w i h
  have hxyn := splitWord_xyn w
  have hxnn := splitWord_xnn w
  have hnnn := splitWord_nnn w
  unfold decode selectHandler at h
  split at h
  case h_1 hf => -- family 0x0, keyed by NN
    rw [hf] at hxnn
    split at h <;> cases h
    case h_1 hnn | h_2 hnn => rwa [hnn] at hxnn
  case h_9 hf => -- family 0x8, keyed by N
    rw [hf] at hxyn
    split at h <;> cases h
    all_goals rename_i hn; rwa [hn] at hxyn
  all_goals cases h
  all_goals rename_i hf; rw [hf] at hxyn hxnn hnnn; assumption

/-- An instruction and its word determine each other. -/
theorem decode_eq_ok_iff {w : Word} {i : Instr} : decode w = .ok i ↔ encode i = w :=
  ⟨encodeOfDecode w i, fun h => h ▸ decodeOfEncode i⟩

/-! ### The opcode map -/

/-- The opcode map holds the rows of the 22 instructions, in the order of their constructors. -/
theorem opcodeMap_eq_map_opcodeRow : opcodeMap =
    [.cls 0, .ret 0, .jp 0, .call 0, .seImm 0 0, .sneImm 0 0, .seReg 0 0 0, .ldImm 0 0, .addImm 0 0, .ldReg 0 0,
      .orReg 0 0, .andReg 0 0, .xorReg 0 0, .addReg 0 0, .sub 0 0, .shr 0 0, .subn 0 0, .shl 0 0, .ldI 0, .jpV0 0,
      .rnd 0 0, .drw 0 0 0].map opcodeRow := rfl

theorem exists_opcodeRow_eq {r : OpcodeRow} (h : r ∈ opcodeMap) : ∃ i, opcodeRow i = r := by
  rw [opcodeMap_eq_map_opcodeRow] at h
  obtain ⟨i, -, hi⟩ := List.mem_map.mp h
  exact ⟨i, hi⟩

/-- A word in a row of the map decodes to an instruction of that row. -/
theorem decode_of_matchesWord {w : Word} {r : OpcodeRow} (hr : r ∈ opcodeMap) (h : r.matchesWord w = true) :
    ∃ i, decode w = .ok i ∧ opcodeRow i = r := by
  obtain ⟨i, rfl⟩ := exists_opcodeRow_eq hr
  exact ⟨_, decodesAs_opcodeRow i w (beq_iff_eq.mp h), opcodeRow_withOperandsOf w i⟩

/-- Settles O5: a word that decodes is the word of its instruction and so stands in that instruction's row; two rows
that match a word are the row of the one instruction it decodes to. -/
theorem opcodeRowsDecideDecoding : Obligations.OpcodeRowsDecideDecoding := by
  refine ⟨fun w r => decode_of_matchesWord, fun w hno => ?_, fun w r r' hr hr' h h' => ?_⟩
  · cases hd : decode w with
    | error e => exact ⟨e, rfl⟩
    | ok i =>
      obtain rfl := decode_eq_ok_iff.mp hd
      obtain ⟨hrow, hmem⟩ := encode_in_opcodeRow i
      simp [hno _ hmem] at hrow
  · obtain ⟨i, hi, rfl⟩ := decode_of_matchesWord hr h
    obtain ⟨j, hj, rfl⟩ := decode_of_matchesWord hr' h'
    cases hi.symm.trans hj
    rfl

/-! ### The unsupported words -/

/-- The family nibbles that are no primary key. -/
theorem family_without_handler : ∀ f : Nibble, f ∉ [0x0#4, 0x1#4, 0x2#4, 0x3#4, 0x4#4, 0x5#4, 0x6#4, 0x7#4, 0x8#4,
    0xA#4, 0xB#4, 0xC#4, 0xD#4] → f = 0x9 ∨ f = 0xE ∨ f = 0xF := by decide

/-- The values of `n` that are no secondary key of family 0x8. -/
theorem key_without_handler : ∀ n : Nibble, n ∉ [0x0#4, 0x1#4, 0x2#4, 0x3#4, 0x4#4, 0x5#4, 0x6#4, 0x7#4, 0xE#4] →
    (8 ≤ n.toNat ∧ n.toNat ≤ 0xD) ∨ n = 0xF := by decide

/-- The dispatcher has no handler for three families, and in the families 0x0 and 0x8 for the other keys (R95). -/
theorem selectHandler_error_iff (d : Fields) : (∃ e, selectHandler d = .error e) ↔
    (d.f = 0x9 ∨ d.f = 0xE ∨ d.f = 0xF ∨ (d.f = 0x0 ∧ d.nn ≠ 0xE0 ∧ d.nn ≠ 0xEE) ∨
      (d.f = 0x8 ∧ ((8 ≤ d.n.toNat ∧ d.n.toNat ≤ 0xD) ∨ d.n = 0xF))) := by
  unfold selectHandler
  split
  case h_1 hf => -- family 0x0, keyed by NN
    split
    case h_3 hE0 hEE =>
      have hlisted : d.f = 0x0 ∧ d.nn ≠ 0xE0 ∧ d.nn ≠ 0xEE := ⟨hf, hE0, hEE⟩
      exact iff_of_true ⟨_, rfl⟩ (.inr (.inr (.inr (.inl hlisted))))
    all_goals rename_i hnn; simp [hf, hnn]
  case h_9 hf => -- family 0x8, keyed by N
    split
    case h_10 =>
      have hkey : (8 ≤ d.n.toNat ∧ d.n.toNat ≤ 0xD) ∨ d.n = 0xF := key_without_handler d.n (by simp_all)
      exact iff_of_true ⟨_, rfl⟩ (.inr (.inr (.inr (.inr ⟨hf, hkey⟩))))
    all_goals rename_i hn; simp [hf, hn]
  case h_14 => -- a family without a handler
    have hfamily : d.f = 0x9 ∨ d.f = 0xE ∨ d.f = 0xF := family_without_handler d.f (by simp_all)
    exact iff_of_true ⟨_, rfl⟩ (hfamily.imp_right fun h => h.imp_right .inl)
  all_goals rename_i hf; simp [hf]

/-- Settles O6: the listed words are those whose fields select no handler. -/
theorem unsupportedWordsAreTheListedOnes : Obligations.UnsupportedWordsAreTheListedOnes :=
  fun w => selectHandler_error_iff (splitWord w)

/-! ### Fields and written-out words -/

/-- A field of `k` bits from bit `j` on is the word shifted and masked. -/
theorem toNat_extractLsb'_eq_and (w : Word) (j k : Nat) :
    (w.extractLsb' j k).toNat = (w.toNat >>> j) &&& (2 ^ k - 1) := by
  rw [BitVec.extractLsb'_toNat, Nat.and_two_pow_sub_one_eq_mod]

/-- Settles O1: each of the six fields is a slice of the word. -/
theorem decodedFieldsAreShiftsAndMasks : Obligations.DecodedFieldsAreShiftsAndMasks := fun w =>
  ⟨rfl, toNat_extractLsb'_eq_and w 12 4, toNat_extractLsb'_eq_and w 8 4, toNat_extractLsb'_eq_and w 4 4,
    toNat_extractLsb'_eq_and w 0 4, toNat_extractLsb'_eq_and w 0 8, toNat_extractLsb'_eq_and w 0 12⟩

/-- Settles O2: closed words, evaluated. -/
theorem writtenOutWordsDecode : Obligations.WrittenOutWordsDecode := by
  unfold Obligations.WrittenOutWordsDecode
  decide

end Sys2Proof
end

section
/-! Ignored nibbles, and the step of a decoded instruction: O7, O8. -/

namespace Sys2Proof.Machine

/-- The ignored nibble is no argument of what the instruction does (30_encoding.md R91 to R93). -/
theorem exec_canonical (i : Instr) (s : State) : exec i.canonical s = exec i s := by
  cases i <;> rfl

theorem canonical_wellFormed (i : Instr) : i.canonical.wellFormed = true := by
  cases i <;> rfl

/-- A well-formed instruction has 0 in its ignored nibble, where it has one, and is its own form. -/
theorem canonical_of_wellFormed {i : Instr} (h : i.wellFormed = true) : i.canonical = i := by
  cases i with
  | cls z | ret z | seReg _ _ z | shr _ z | shl _ z =>
    obtain rfl : z = 0 := beq_iff_eq.mp h
    rfl
  | _ => rfl

/-- Settles O7: the three facts on the form an assembler emits. -/
theorem ignoredNibblesDoNotMatter : Obligations.IgnoredNibblesDoNotMatter := fun i s =>
  ⟨exec_canonical i s, canonical_wellFormed i, canonical_of_wellFormed⟩

theorem State.endTick_eq_ite (t : State) : t.endTick = if t.FAULT.kind = 0 then t.tickTimers else t := by
  by_cases h : t.FAULT.kind = 0 <;> simp [State.endTick, State.latched, h]

/-- The tick of a word that decodes, whether its instruction commits or raises. -/
theorem step_of_decode {s : State} {w : Word} {i : Instr} (hk : s.FAULT.kind = 0) (hf : s.fetchWord = .ok w)
    (hd : decode w = .ok i) : step s = finishTick (exec i s) := by
  simp [step, runTick, runWord, State.latched_eq_false.mpr hk, hf, hd]

theorem exec_answers (i : Instr) (s : State) : ∃ t, exec i s = .next t := by
  rcases exec_cases i s with ⟨_, h, _⟩ | ⟨_, h, _⟩ <;> exact ⟨_, h⟩

/-- Settles O8: `exec` answers some state, and what ends the tick depends only on whether it raised. -/
theorem stepRunsTheDecodedInstruction : Obligations.StepRunsTheDecodedInstruction := by
  intro s w i hk hf hd
  obtain ⟨t, ht⟩ := exec_answers i s
  refine ⟨t, ht, ?_⟩
  rw [step_of_decode hk hf hd, ht, finishTick_next, State.endTick_eq_ite, apply_ite State.consumeDraw]

end Sys2Proof.Machine
end

section
/-! Control transfer (40_control_flow.md R110 to R117): O26, O27, O28, O30, O31. -/

namespace Sys2Proof.Machine

/-! ### Targets, timers and frames -/

theorem toNat_absoluteTarget (nnn : Addr) : (absoluteTarget nnn).toNat = nnn.toNat := by
  have hn : nnn.toNat < 4096 := nnn.isLt
  simp only [absoluteTarget, BitVec.toNat_setWidth]
  omega

/-- The sum of BNNN fits in 16 bits, so it is the exact one (the spec's decision D25). -/
theorem State.toNat_indexedTarget (s : State) (nnn : Addr) :
    (s.indexedTarget nnn).toNat = (s.readV 0).toNat + nnn.toNat := by
  have hv : (s.readV 0).toNat < 256 := (s.readV 0).isLt
  have hn : nnn.toNat < 4096 := nnn.isLt
  simp only [State.indexedTarget, BitVec.toNat_add, BitVec.toNat_setWidth]
  omega

theorem toNat_countDown (t : Byte) : (countDown t).toNat = t.toNat - 1 := by
  unfold countDown
  split
  case isTrue h => rw [h]; rfl
  case isFalse h => bv_omega

theorem changesOnly_consumeDraw (s : State) :
    ChangesOnly (fun p => p = .draws ∨ p = .drawCount) s s.consumeDraw := by
  intro p hp
  cases p with
  | draws => exact absurd (.inl rfl) hp
  | drawCount => exact absurd (.inr rfl) hp
  | _ => simp [Part.same, State.slot]

/-- The slot a push writes is one of the sixteen. -/
theorem State.toNat_ofNat_SP {s : State} (h : s.SP.val < 16) : (BitVec.ofNat 4 s.SP.val).toNat = s.SP.val :=
  (BitVec.toNat_ofNat _ _).trans (Nat.mod_eq_of_lt h)

theorem State.slot_pushed {s : State} (v : Word) (h : s.SP.val < 16) :
    (s.pushed v h).slot (BitVec.ofNat 4 s.SP.val) = v :=
  (State.slot_set s h v _).trans (if_pos (State.toNat_ofNat_SP h))

theorem changesOnly_pushed {s : State} (v : Word) (h : s.SP.val < 16) :
    ChangesOnly (fun p => p = .SP ∨ p = .slot (BitVec.ofNat 4 s.SP.val)) s (s.pushed v h) := by
  have hslot : ChangesOnly (· = .slot (BitVec.ofNat 4 s.SP.val)) s { s with stack := s.stack.set s.SP.val v h } := by
    simpa only [State.toNat_ofNat_SP h] using changesOnly_slot s (BitVec.ofNat 4 s.SP.val) v
  have hSP := changesOnly_SP { s with stack := s.stack.set s.SP.val v h } ⟨s.SP.val + 1, by omega⟩
  exact (hslot.mono fun _ => .inr).trans (hSP.mono fun _ => .inl)

/-! ### Jumps -/

/-- Settles O31: the target is set over the advance, and a fetch above 0xFFF fails at `pc` itself. -/
theorem jpV0AddsV0ToTheTarget : Obligations.JpV0AddsV0ToTheTarget := by
  refine ⟨decodesAs_opcodeRow (.jpV0 0), fun nnn s => ⟨_, exec_jpV0 s nnn, s.toNat_indexedTarget nnn,
    s.indexedTarget_le nnn, changesOnly_setPc s (s.indexedTarget nnn), fun h => ?_⟩⟩
  have hpc : 0x1000 ≤ (s.advance.setPc (s.indexedTarget nnn)).pc.toNat := by
    rw [State.setPc_pc, State.toNat_indexedTarget]; exact h
  exact State.fetchWord_error_above hpc

/-- A jump to its own address leaves the state as it was. -/
theorem exec_jp_self {s : State} {nnn : Addr} (h : nnn.toNat = s.pc.toNat) : exec (.jp nnn) s = .next s := by
  have htarget : absoluteTarget nnn = s.pc := BitVec.eq_of_toNat_eq ((toNat_absoluteTarget nnn).trans h)
  rw [exec_jp, htarget]
  rfl

/-- Settles O27: the target is set over the advance; a jump to its own address leaves the state to the timers and the
draw. -/
theorem jpSetsThePc : Obligations.JpSetsThePc := by
  refine ⟨decodesAs_opcodeRow (.jp 0), fun nnn s => ⟨_, exec_jp s nnn, toNat_absoluteTarget nnn,
    changesOnly_setPc s (absoluteTarget nnn), fun h => ?_⟩, fun s w nnn hk hf hd hself => ?_⟩
  · subst h
    exact State.fetchWord_error_at_last (toNat_absoluteTarget 0xFFF)
  · have htimers := changesOnly_tickTimers s
    have hdraw := changesOnly_consumeDraw s.tickTimers
    refine ⟨_, step_of_exec hk hf hd (exec_jp_self hself) hk, ?_, ?_, ?_⟩
    · exact (htimers.mono fun _ h => h.imp_right .inl).trans (hdraw.mono fun _ h => .inr (.inr h))
    · simp [toNat_countDown]
    · simp [toNat_countDown]

/-! ### RET and CALL -/

/-- Settles O26: the popped slot is slot SP - 1, and the pop changes SP alone. -/
theorem retPopsTheReturnAddress : Obligations.RetPopsTheReturnAddress := by
  refine ⟨decodesAs_opcodeRow (.ret 0), fun x s k hSP => ?_, fun x s hSP => exec_ret_empty x hSP⟩
  have hk : s.SP.val - 1 = k := by omega
  refine ⟨_, exec_ret_ok x (by omega), hk, ?_, ?_⟩
  · rw [State.setPc_pc, State.topSlot_eq_slot, hk]
  · have hpc := changesOnly_setPc s s.topSlot
    have hpop := changesOnly_SP (s.setPc s.topSlot) ⟨s.SP.val - 1, by omega⟩
    exact (hpc.mono fun _ => .inl).trans (hpop.mono fun _ => .inr)

/-- Settles O28: the push writes SP and the slot of the old SP, the jump writes `pc`. -/
theorem callPushesTheReturnAddress : Obligations.CallPushesTheReturnAddress := by
  refine ⟨decodesAs_opcodeRow (.call 0), fun nnn s hSP => ?_, fun nnn s hSP => exec_call_full nnn hSP⟩
  have hpush := changesOnly_pushed (s.pc + 2) hSP
  have hpc := changesOnly_setPc (s.pushed (s.pc + 2) hSP) (absoluteTarget nnn)
  exact ⟨_, exec_call_ok nnn hSP, rfl, toNat_absoluteTarget nnn, State.slot_pushed (s.pc + 2) hSP,
    (hpush.mono fun _ => .inr).trans (hpc.mono fun _ => .inl)⟩

/-! ### Skips -/

/-- A skip over the advance sets `pc` and nothing else (R110). -/
theorem State.skipIf_advance (s : State) (c : Bool) :
    s.advance.skipIf c = s.setPc (if c then s.pc + 4#16 else s.pc + 2#16) := by
  cases c with
  | false => rfl
  | true =>
    have hsum : s.pc + 2 + 2 = s.pc + 4#16 := BitVec.add_assoc s.pc 2 2
    exact congrArg s.setPc hsum

theorem changesOnly_skipIf_advance (s : State) (c : Bool) : ChangesOnly (· = .pc) s (s.advance.skipIf c) := by
  rw [State.skipIf_advance]
  exact changesOnly_setPc s _

/-- Settles O30: the three skips differ in their condition alone. -/
theorem skipsAdvanceByFourOrTwo : Obligations.SkipsAdvanceByFourOrTwo := by
  refine ⟨decodesAs_opcodeRow (.seImm 0 0), decodesAs_opcodeRow (.sneImm 0 0), decodesAs_opcodeRow (.seReg 0 0 0),
    fun x s => ⟨fun nn => ?_, fun nn => ?_, fun y n => ?_⟩⟩
  · refine ⟨_, exec_seImm s x nn, changesOnly_skipIf_advance s _, by simp [State.skipIf_advance], fun hA hx => ?_⟩
    have hpc : (s.advance.skipIf (s.readV x == nn)).pc = 0x1000 := by simp [State.skipIf_advance, hx, hA]
    have hgt : 0xFFE < (s.advance.skipIf (s.readV x == nn)).pc.toNat := by rw [hpc]; decide
    obtain ⟨e, he⟩ := State.fetchWord_error_of_gt hgt
    exact ⟨hpc, e, he, State.fetchWord_error_kind he⟩
  · exact ⟨_, exec_sneImm s x nn, changesOnly_skipIf_advance s _, by simp [State.skipIf_advance]⟩
  · exact ⟨_, exec_seReg s x y n, changesOnly_skipIf_advance s _, by simp [State.skipIf_advance]⟩

end Sys2Proof.Machine
end

section
/-! Immediate loads, the immediate add, the index load and RND (41_load_immediate.md R130 to R133): O32, O33, O34, O35. -/

namespace Sys2Proof.Machine

/-! ### Frames over the advance, the sum and the draw -/

theorem changesOnly_advance (s : State) : ChangesOnly (· = .pc) s s.advance := changesOnly_setPc s (s.pc + 2)

/-- The frame of every instruction whose only result is one register. -/
theorem changesOnly_advance_setV (s : State) (x : Nibble) (b : Byte) :
    ChangesOnly (fun p => p = .V x ∨ p = .pc) s (s.advance.setV x b) :=
  ((changesOnly_advance s).mono fun _ => .inr).trans ((changesOnly_setV s.advance x b).mono fun _ => .inl)

theorem changesOnly_advance_setI (s : State) (a : Addr) :
    ChangesOnly (fun p => p = .I ∨ p = .pc) s (s.advance.setI a) :=
  ((changesOnly_advance s).mono fun _ => .inr).trans ((changesOnly_setI s.advance a).mono fun _ => .inl)

@[simp] theorem toNat_sum8 (a b : Byte) : (sum8 a b).toNat = (a.toNat + b.toNat) % 256 :=
  BitVec.toNat_ofNat _ _

/-- A supplied draw goes before the free ones, the oldest first (10_state.md R34, log 3). -/
theorem State.nextDraw_of_draws {s : State} {d : Byte} {ds : List Byte} (h : s.draws = d :: ds) : s.nextDraw = d := by
  simp [State.nextDraw, h]

/-! ### The statements -/

/-- Settles O32: the register reads back the byte written over the advance. -/
theorem ldImmWritesOneRegister : Obligations.LdImmWritesOneRegister :=
  ⟨decodesAs_opcodeRow (.ldImm 0 0), fun x nn s =>
    ⟨_, exec_ldImm s x nn, s.advance.readV_setV_self x nn, s.advance_pc, changesOnly_advance_setV s x nn⟩⟩

/-- Settles O33: the byte written is the sum modulo 256, and no second register is written. -/
theorem addImmWrapsWithoutFlag : Obligations.AddImmWrapsWithoutFlag := by
  refine ⟨decodesAs_opcodeRow (.addImm 0 0), fun x nn s =>
    ⟨_, exec_addImm s x nn, ?_, s.advance_pc, changesOnly_advance_setV s x (sum8 (s.readV x) nn)⟩⟩
  rw [State.readV_setV_self, toNat_sum8]

/-- Settles O34: the address is written as it is, over the advance. -/
theorem ldIWritesTheIndexRegister : Obligations.LdIWritesTheIndexRegister :=
  ⟨decodesAs_opcodeRow (.ldI 0), fun nnn s =>
    ⟨_, exec_ldI s nnn, s.advance.setI_I nnn, s.advance_pc, changesOnly_advance_setI s nnn⟩⟩

/-- Settles O35: the byte written is the masked draw, wherever the draw comes from. -/
theorem rndMasksTheDraw : Obligations.RndMasksTheDraw :=
  ⟨decodesAs_opcodeRow (.rnd 0 0), fun x nn s =>
    ⟨_, exec_rnd s x nn, s.advance.readV_setV_self x (s.nextDraw &&& nn), s.advance_pc,
      changesOnly_advance_setV s x (s.nextDraw &&& nn)⟩,
    fun _ _ _ => State.nextDraw_of_draws⟩

end Sys2Proof.Machine
end

section
/-! The register-register family 0x8 (42_alu.md R140 to R151): O36, O37, O38, O39, O40, O41. -/

namespace Sys2Proof.Machine

/-! ### Results and flags in plain arithmetic (R151) -/

theorem flagByte_decide (p : Prop) [Decidable p] : flagByte (decide p) = if p then 1 else 0 := by
  simp only [flagByte, decide_eq_true_eq]

theorem carryOut_eq_ite (a b : Byte) : carryOut a b = if a.toNat + b.toNat > 255 then 1 else 0 :=
  flagByte_decide _

theorem noBorrow_eq_ite (a b : Byte) : noBorrow a b = if a.toNat ≥ b.toNat then 1 else 0 :=
  flagByte_decide _

theorem toNat_diff8 (a b : Byte) : (diff8 a b).toNat = (a.toNat + 256 - b.toNat) % 256 := BitVec.toNat_ofNat _ _

/-- Adding 256 keeps the subtraction in the naturals and does not change it modulo 256. -/
theorem cast_toNat_diff8 (a b : Byte) : ((diff8 a b).toNat : Int) = (a.toNat - b.toNat : Int) % 256 := by
  have hb : b.toNat < 256 := b.isLt
  rw [toNat_diff8]
  omega

/-- The minuend is at least the wrapped difference exactly when it is at least the subtrahend, so the flag may be
computed from the new value of the destination, as 8XY7 does in the order `after` (R149). -/
theorem noBorrow_diff8 (a b : Byte) : noBorrow a (diff8 a b) = noBorrow a b := by
  have hle : (diff8 a b).toNat ≤ a.toNat ↔ b.toNat ≤ a.toNat := by
    have ha : a.toNat < 256 := a.isLt
    have hb : b.toNat < 256 := b.isLt
    rw [toNat_diff8]
    omega
  simp only [noBorrow_eq_ite, ge_iff_le, hle]

theorem toNat_shiftRight1 (a : Byte) : (shiftRight1 a).toNat = a.toNat / 2 :=
  (BitVec.toNat_ushiftRight a 1).trans (Nat.shiftRight_eq_div_pow _ 1)

theorem toNat_shiftedOutLow (a : Byte) : (shiftedOutLow a).toNat = a.toNat % 2 :=
  (BitVec.toNat_and a 1).trans (Nat.and_two_pow_sub_one_eq_mod _ 1)

theorem toNat_shiftLeft1 (a : Byte) : (shiftLeft1 a).toNat = a.toNat * 2 % 256 :=
  (BitVec.toNat_shiftLeft).trans (congrArg (· % 256) (Nat.shiftLeft_eq _ 1))

/-- Bit 7 of a byte is its quotient by 128, which is 0 or 1 (the spec's decision D12). -/
theorem toNat_shiftedOutHigh (a : Byte) : (shiftedOutHigh a).toNat = a.toNat / 128 := by
  have hbit : a.toNat / 128 < 2 := by have := a.isLt; omega
  calc (shiftedOutHigh a).toNat = (a >>> 7).toNat % 2 := toNat_shiftedOutLow (a >>> 7)
    _ = a.toNat / 128 % 2 := by rw [BitVec.toNat_ushiftRight, Nat.shiftRight_eq_div_pow]
    _ = a.toNat / 128 := Nat.mod_eq_of_lt hbit

/-! ### A flag and a destination, in either order (R141) -/

section
variable (s : State) (x : Nibble) (b d : Byte)

theorem State.readV_F_setVF : (s.setVF b).readV 0xF#4 = b := s.readV_setV_self regF b

/-- A destination other than VF leaves the flag written before it. -/
theorem State.readV_F_setVF_setV (hx : x ≠ 0xF#4) : ((s.setVF b).setV x d).readV 0xF#4 = b := by
  rw [State.readV_setV_of_ne _ d hx.symm, State.readV_F_setVF]

/-- A flag leaves a destination other than VF. -/
theorem State.readV_setV_setVF (hx : x ≠ 0xF#4) : ((s.setV x d).setVF b).readV x = d :=
  (State.readV_setV_of_ne _ b hx).trans (s.readV_setV_self x d)

/-- Off VF the order of the two writes cannot be told from the registers. -/
theorem State.readV_setVF_setV_comm (hx : x ≠ 0xF#4) (j : Nibble) :
    ((s.setVF b).setV x d).readV j = ((s.setV x d).setVF b).readV j := by
  by_cases hj : j = x
  · rw [hj, State.readV_setV_self, s.readV_setV_setVF x b d hx]
  · simp only [State.readV_setV, State.readV_setVF, hj, if_false]

theorem changesOnly_advance_setVF_setV :
    ChangesOnly (fun p => p = .V x ∨ p = .V 0xF#4 ∨ p = .pc) s ((s.advance.setVF b).setV x d) :=
  ((changesOnly_advance_setV s regF b).mono fun _ => .inr).trans ((changesOnly_setV _ x d).mono fun _ => .inl)

theorem changesOnly_advance_setV_setVF :
    ChangesOnly (fun p => p = .V x ∨ p = .V 0xF#4 ∨ p = .pc) s ((s.advance.setV x d).setVF b) :=
  ((changesOnly_advance_setV s x d).mono fun _ h => h.imp_right .inr).trans
    ((changesOnly_setV _ regF b).mono fun _ h => .inr (.inl h))

end

/-- In the order `after` the flag is the one of the operands before (R149). -/
theorem exec_subn_after_noBorrow {s : State} (x y : Nibble) (h : s.cfg.subnFlagOrder = .after) :
    exec (.subn x y) s =
      .next ((s.advance.setV x (diff8 (s.readV y) (s.readV x))).setVF (noBorrow (s.readV y) (s.readV x))) := by
  rw [exec_subn_after x y h, noBorrow_diff8]

/-! ### The statements -/

/-- Settles O40: the two orders by their own rule; at x = 0xF the write made last stays. -/
theorem subnWritesDifferenceAndNoBorrow : Obligations.SubnWritesDifferenceAndNoBorrow := by
  refine ⟨decodesAs_opcodeRow (.subn 0 0), fun x y s => ?_⟩
  cases h : s.cfg.subnFlagOrder with
  | before =>
    refine ⟨_, exec_subn_before x y h, fun hx => ?_, fun _ => ?_, s.advance_pc,
      changesOnly_advance_setVF_setV s x _ _⟩
    · have hx : x ≠ 0xF#4 := hx.resolve_right (by decide)
      rw [State.readV_F_setVF_setV _ x _ _ hx, noBorrow_eq_ite]
    · rw [State.readV_setV_self, cast_toNat_diff8]
  | after =>
    refine ⟨_, exec_subn_after_noBorrow x y h, fun _ => ?_, fun hx => ?_, s.advance_pc,
      changesOnly_advance_setV_setVF s x _ _⟩
    · rw [State.readV_F_setVF, noBorrow_eq_ite]
    · have hx : x ≠ 0xF#4 := hx.resolve_right (by decide)
      rw [State.readV_setV_setVF _ x _ _ hx, cast_toNat_diff8]

/-- Settles O36: the four instructions write the destination over the advance and nothing else. -/
theorem copyAndLogicWriteOnlyTheDestination : Obligations.CopyAndLogicWriteOnlyTheDestination :=
  ⟨decodesAs_opcodeRow (.ldReg 0 0), decodesAs_opcodeRow (.orReg 0 0), decodesAs_opcodeRow (.andReg 0 0),
    decodesAs_opcodeRow (.xorReg 0 0), fun x y s =>
    ⟨⟨_, exec_ldReg s x y, s.advance.readV_setV_self x _, s.advance_pc, changesOnly_advance_setV s x _⟩,
      ⟨_, exec_orReg s x y, s.advance.readV_setV_self x _, s.advance_pc, changesOnly_advance_setV s x _⟩,
      ⟨_, exec_andReg s x y, s.advance.readV_setV_self x _, s.advance_pc, changesOnly_advance_setV s x _⟩,
      ⟨_, exec_xorReg s x y, s.advance.readV_setV_self x _, s.advance_pc, changesOnly_advance_setV s x _⟩⟩⟩

/-- Settles O37: the carry is written last and always stays. -/
theorem addRegWritesSumThenCarry : Obligations.AddRegWritesSumThenCarry := by
  refine ⟨decodesAs_opcodeRow (.addReg 0 0), fun x y s => ⟨_, exec_addReg s x y, ?_, fun hx => ?_, s.advance_pc,
    changesOnly_advance_setV_setVF s x _ _⟩⟩
  · rw [State.readV_F_setVF, carryOut_eq_ite]
  · rw [State.readV_setV_setVF _ x _ _ hx, toNat_sum8]

/-- Settles O38: the difference is written last and always stays. -/
theorem subWritesNoBorrowThenDifference : Obligations.SubWritesNoBorrowThenDifference := by
  refine ⟨decodesAs_opcodeRow (.sub 0 0), fun x y s => ⟨_, exec_sub s x y, fun hx => ?_, ?_, s.advance_pc,
    changesOnly_advance_setVF_setV s x _ _⟩⟩
  · rw [State.readV_F_setVF_setV _ x _ _ hx, noBorrow_eq_ite]
  · rw [State.readV_setV_self, cast_toNat_diff8]

/-- Settles O39: the shifted value is written last and always stays; Y is not read. -/
theorem shiftsWriteTheLostBitThenTheValue : Obligations.ShiftsWriteTheLostBitThenTheValue := by
  refine ⟨decodesAs_opcodeRow (.shr 0 0), decodesAs_opcodeRow (.shl 0 0), fun x y s =>
    ⟨⟨_, exec_shr s x y, fun hx => ?_, ?_, s.advance_pc, changesOnly_advance_setVF_setV s x _ _⟩,
      ⟨_, exec_shl s x y, fun hx => ?_, ?_, s.advance_pc, changesOnly_advance_setVF_setV s x _ _⟩⟩⟩
  · rw [State.readV_F_setVF_setV _ x _ _ hx, toNat_shiftedOutLow]
  · rw [State.readV_setV_self, toNat_shiftRight1]
  · rw [State.readV_F_setVF_setV _ x _ _ hx, toNat_shiftedOutHigh]
  · rw [State.readV_setV_self, toNat_shiftLeft1]

/-- Settles O41: both orders write the same flag and the same difference, and off VF the order of two writes does not
matter. -/
theorem subnOrdersAgreeOffVF : Obligations.SubnOrdersAgreeOffVF := by
  intro x y s t u hx ht hu j
  cases (exec_subn_before x y rfl).symm.trans ht
  cases (exec_subn_after_noBorrow x y rfl).symm.trans hu
  exact s.advance.readV_setVF_setV_comm x _ _ hx j

end Sys2Proof.Machine
end

section
/-! The framebuffer instructions (43_display.md R160 to R164): O42, O43, O44, O45. -/

namespace Sys2Proof.Machine

/-! ### Frames of the framebuffer -/

theorem changesOnly_setFB (s : State) (fb : Framebuffer) :
    ChangesOnly (fun p => ∃ c r, p = .pixel c r) s (s.setFB fb) := by
  intro p hp
  cases p with
  | pixel c r => exact absurd ⟨c, r, rfl⟩ hp
  | _ => exact rfl

theorem changesOnly_advance_setFB (s : State) (fb : Framebuffer) :
    ChangesOnly (fun p => p = .pc ∨ ∃ c r, p = .pixel c r) s (s.advance.setFB fb) :=
  ((changesOnly_advance s).mono fun _ => .inl).trans ((changesOnly_setFB s.advance fb).mono fun _ => .inr)

theorem changesOnly_advance_setFB_setVF (s : State) (fb : Framebuffer) (b : Byte) :
    ChangesOnly (fun p => p = .V 0xF#4 ∨ p = .pc ∨ ∃ c r, p = .pixel c r) s ((s.advance.setFB fb).setVF b) :=
  ((changesOnly_advance_setFB s fb).mono fun _ => .inr).trans ((changesOnly_setV _ regF b).mono fun _ => .inl)

/-! ### The canvas in terms of the pixels the sprite covers -/

/-- The sprite bytes in the order they are read (R161): row `dr` is the byte at `I + dr`. -/
theorem State.getElem?_spriteBytes (s : State) (a n dr : Nat) (b : Byte) :
    ((List.range' a n).map s.byteAt)[dr]? = some b ↔ dr < n ∧ s.byteAt (a + dr) = b := by
  by_cases h : dr < n <;> simp [h]

/-- A set bit in the list of the sprite's bytes is a set bit of the sprite in memory. -/
theorem State.spriteCovers_iff (s : State) (x0 y0 n : Nat) (c : Column) (r : Row) :
    s.spriteCovers x0 y0 n c r ↔ ∃ dc dr b, dc < 8 ∧ ((List.range' s.I.toNat n).map s.byteAt)[dr]? = some b ∧
      c.val = (x0 + dc) % 64 ∧ r.val = (y0 + dr) % 32 ∧ b.getLsbD (7 - dc) = true := by
  constructor
  · rintro ⟨dc, dr, hdc, hdr, hc, hr, hbit⟩
    exact ⟨dc, dr, _, hdc, (s.getElem?_spriteBytes _ n dr _).mpr ⟨hdr, rfl⟩, hc, hr, hbit⟩
  · rintro ⟨dc, dr, b, hdc, hb, hc, hr, hbit⟩
    obtain ⟨hdr, rfl⟩ := (s.getElem?_spriteBytes _ n dr b).mp hb
    exact ⟨dc, dr, hdc, hdr, hc, hr, hbit⟩

section
variable (s : State) (x y n : Nibble)

/-- `Canvas.drawSprite_spec` applies to every DXYN: its row count, a nibble, is below 32, so no pixel is visited twice. -/
theorem State.spriteBytes_length_le : ((List.range' s.I.toNat n.toNat).map s.byteAt).length ≤ 32 := by
  have hn : n.toNat < 16 := n.isLt
  simp only [List.length_map, List.length_range']
  omega

theorem State.pixel_drawn_of_covers {c : Column} {r : Row}
    (h : s.spriteCovers (s.readV x).toNat (s.readV y).toNat n.toNat c r) :
    (s.drawn x y n).fb.pixel c r = !s.pixel c r :=
  ((Canvas.drawSprite_spec _ _ _ _ (s.spriteBytes_length_le n)).1 c r).trans
    (if_pos ((s.spriteCovers_iff _ _ _ c r).mp h))

theorem State.pixel_drawn_of_not_covers {c : Column} {r : Row}
    (h : ¬ s.spriteCovers (s.readV x).toNat (s.readV y).toNat n.toNat c r) :
    (s.drawn x y n).fb.pixel c r = s.pixel c r :=
  ((Canvas.drawSprite_spec _ _ _ _ (s.spriteBytes_length_le n)).1 c r).trans
    (if_neg fun hbit => h ((s.spriteCovers_iff _ _ _ c r).mpr hbit))

/-- The collision bit starts false, so it is set exactly when some pixel went from true to false (R161). -/
theorem State.collision_drawn_iff : (s.drawn x y n).collision = true ↔
    ∃ c r, s.pixel c r = true ∧ (s.drawn x y n).fb.pixel c r = false :=
  (Canvas.drawSprite_spec _ _ _ _ (s.spriteBytes_length_le n)).2.trans (or_iff_right Bool.false_ne_true)

/-- DXYN of no rows leaves the canvas as it was. -/
theorem State.drawn_zero : s.drawn x y 0 = ⟨s.FB, false⟩ := rfl

end

theorem exec_drw_zero {s : State} (x y : Nibble) (h : s.cfg.drawReferenceFault = false) :
    exec (.drw x y 0) s = .next (s.advance.setVF 0) := by
  have hI : s.I.toNat + (0 : Nibble).toNat ≤ 4096 := Nat.le_of_lt s.I.isLt
  rw [exec_drw_ok x y 0 h hI, State.drawn_zero]
  rfl

/-! ### The statements -/

/-- Settles O43: the pixels and the collision bit are those of the drawn canvas, and VF is written last. -/
theorem drwFlipsExactlyTheSpritePixels : Obligations.DrwFlipsExactlyTheSpritePixels := by
  intro x y n s hcfg hI
  refine ⟨_, exec_drw_ok x y n hcfg hI, fun _ _ => s.pixel_drawn_of_covers x y n,
    fun _ _ => s.pixel_drawn_of_not_covers x y n, fun hlost => ?_, fun hkept => ?_, s.advance_pc,
    changesOnly_advance_setFB_setVF s _ _⟩
  · have hcol : (s.drawn x y n).collision = true := (s.collision_drawn_iff x y n).mpr hlost
    rw [State.readV_F_setVF, hcol]
    rfl
  · have hcol : (s.drawn x y n).collision = false := by
      refine Bool.eq_false_iff.mpr fun h => ?_
      obtain ⟨c, r, hlost⟩ := (s.collision_drawn_iff x y n).mp h
      exact hkept c r hlost
    rw [State.readV_F_setVF, hcol]
    rfl

/-- Settles O45: the two raising rules of DXYN, with the codes 4 and 6 of their errors (60_exceptions.md R170). -/
theorem drwRaisesOutsideMemoryOrByReference : Obligations.DrwRaisesOutsideMemoryOrByReference :=
  ⟨decodesAs_opcodeRow (.drw 0 0 0), fun x y n _ => exec_drw_outside x y n, fun x y n _ => exec_drw_reference x y n⟩

/-- Settles O42: every pixel reads as the cleared grid's, over the advance. -/
theorem clsClearsEveryPixel : Obligations.ClsClearsEveryPixel :=
  ⟨decodesAs_opcodeRow (.cls 0), fun x s =>
    ⟨_, exec_cls s x, Framebuffer.pixel_clear, s.advance_pc, changesOnly_advance_setFB s Framebuffer.clear⟩⟩

/-- Settles O44: no row is read, so the write of VF over the advance is all that remains. -/
theorem drwOfNoRowsOnlyClearsVF : Obligations.DrwOfNoRowsOnlyClearsVF := fun x y s hcfg =>
  ⟨_, exec_drw_zero x y hcfg, State.readV_F_setVF s.advance 0, s.advance_pc, changesOnly_advance_setV s regF 0⟩

end Sys2Proof.Machine
end

section
/-! Errors and timers over a tick and a run (60_exceptions.md R170 to R176, R186): O11, O12, O13, O15. -/

namespace Sys2Proof.Machine

/-! ### A latched error -/

theorem State.latched_eq_true {t : State} : t.latched = true ↔ t.FAULT.kind ≠ 0 := by simp [State.latched]

theorem State.kind_raise_ne_zero (s : State) (e : Trap) : (s.raise e).FAULT.kind ≠ 0 :=
  State.latched_eq_true.mp (s.raise_latched e)

/-- A run from a latched state stays there (60_exceptions.md R174). -/
theorem core_run_of_latched {s : State} (h : s.latched = true) (n : Nat) : Host.Core.run core n s = .next s := by
  induction n with
  | zero => rfl
  | succ n ih => rw [core_run_succ n (step_of_latched h), ih]

/-- Settles O11: the supplied draw is put back unused, since the step does not read it. -/
theorem latchedTickChangesNothing : Obligations.LatchedTickChangesNothing := by
  intro s rnd hk
  have hl : s.latched = true := State.latched_eq_true.mpr hk
  have htick : tick rnd s = .next (s, s.tickReply) :=
    tick_of_step (t := { s with draws := rnd :: s.draws }) (step_of_latched hl)
  exact ⟨step_of_latched hl, by rw [htick, State.tickReply_of_error hk]⟩

/-! ### A tick that starts with no error latched -/

theorem changesOnly_raise (s : State) (e : Trap) : ChangesOnly (· = .FAULT) s (s.raise e) := by
  intro p hp
  cases p with
  | FAULT => exact absurd rfl hp
  | _ => exact rfl

/-- A tick either raises on the state before it or leaves no error and counts both timers down (30_encoding.md R88). -/
theorem step_raises_or_counts {s t : State} (hk : s.FAULT.kind = 0) (h : step s = .next t) :
    (t.FAULT.kind ≠ 0 ∧ ∃ e, t = (s.raise e).consumeDraw) ∨
    (t.FAULT.kind = 0 ∧ t.DT = countDown s.DT ∧ t.ST = countDown s.ST) := by
  rcases step_cases s with ⟨hl, _⟩ | ⟨_, e, h', _⟩ | ⟨_, w, i, u, _, _, _, hkept, h'⟩
  · exact absurd hk (State.latched_eq_true.mp hl)
  · cases h'.symm.trans h
    exact .inl ⟨by simpa only [State.consumeDraw_FAULT] using s.kind_raise_ne_zero e, e, rfl⟩
  · cases h'.symm.trans h
    obtain ⟨_, hDT, hST, hfault, _, _, _⟩ := hkept
    exact .inr (by simp [hDT, hST, hfault, hk])

/-- Settles O12: what a raising tick leaves is the state before it with `FAULT` latched and the draw used up. -/
theorem failedTickCommitsNothing : Obligations.FailedTickCommitsNothing := by
  intro s t hk h ht
  rcases step_raises_or_counts hk h with ⟨_, e, rfl⟩ | ⟨ht0, _⟩
  · refine ⟨?_, (step_keeps_mem_cfg h).1⟩
    exact ((changesOnly_raise s e).mono fun _ => .inl).trans ((changesOnly_consumeDraw (s.raise e)).mono fun _ => .inr)
  · exact absurd ht0 ht

/-! ### Which error a tick latches -/

/-- The tick of a word that no handler takes latches UnsupportedInstruction with the raw word (30_encoding.md R95). -/
theorem step_of_decode_error {s : State} {w : Word} {e : DecodeError} (hk : s.FAULT.kind = 0) (hf : s.fetchWord = .ok w)
    (hd : decode w = .error e) : step s = .next (s.raise ⟨.unsupportedInstruction, w⟩).consumeDraw := by
  simp [step, runTick, runWord, State.latched_eq_false.mpr hk, hf, hd, State.endTick_of_latched]

/-- The tick of a word whose instruction raises: no timer moves (30_encoding.md R88). -/
theorem step_of_exec_raise {s : State} {w : Word} {i : Instr} {e : Trap} (hk : s.FAULT.kind = 0)
    (hf : s.fetchWord = .ok w) (hd : decode w = .ok i) (he : exec i s = .next (s.raise e)) :
    step s = .next (s.raise e).consumeDraw := by
  rw [step_of_decode hk hf hd, he, finishTick_next, State.endTick_of_latched (s.raise_latched e)]

/-- The first sprite address outside memory is 0x1000, since `I` itself lies inside. -/
theorem State.first_bad_sprite_address {s : State} {r : Nat} (h : 4096 ≤ s.I.toNat + r)
    (hfirst : ∀ q, q < r → s.I.toNat + q < 4096) : s.I.toNat + r = 4096 := by
  have hI : s.I.toNat < 4096 := s.I.isLt
  have hprev := hfirst (r - 1) (by omega)
  omega

/-- Settles O13: one rule of `step` for each stage of the tick, applied to the error that stage raises. -/
theorem tickLatchesTheFirstError : Obligations.TickLatchesTheFirstError := by
  intro s hk
  refine ⟨fun hpc => step_of_fetch_error hk (State.fetchWord_error_above hpc),
    fun hpc => step_of_fetch_error hk (State.fetchWord_error_at_last hpc), fun w hf => ⟨?_, ?_, ?_, ?_, ?_⟩⟩
  · rintro ⟨e, hd⟩
    exact step_of_decode_error hk hf hd
  · intro nnn hd hSP
    exact step_of_exec_raise hk hf hd (exec_call_full nnn hSP)
  · intro x hd hSP
    exact step_of_exec_raise hk hf hd (exec_ret_empty x hSP)
  · intro x y n hd hcfg
    have hw : encode (.drw x y n) = w := decode_eq_ok_iff.mp hd
    exact hw ▸ step_of_exec_raise hk hf hd (exec_drw_reference x y n hcfg)
  · intro x y n r hd hcfg hr hbad hfirst
    have hr4096 := State.first_bad_sprite_address hbad hfirst
    rw [hr4096]
    exact step_of_exec_raise hk hf hd (exec_drw_outside x y n hcfg (by omega))

/-! ### The timers over a run -/

/-- A run that ends with no error latched never raised, so every tick of it counted both timers down. -/
theorem core_run_timers {n : Nat} {s t : State} (hk : s.FAULT.kind = 0) (h : Host.Core.run core n s = .next t)
    (ht : t.FAULT.kind = 0) : t.DT.toNat = s.DT.toNat - n ∧ t.ST.toNat = s.ST.toNat - n := by
  induction n generalizing s with
  | zero => cases h; exact ⟨rfl, rfl⟩
  | succ n ih =>
    obtain ⟨u, hu⟩ := step_answers s
    rw [core_run_succ n hu] at h
    rcases step_raises_or_counts hk hu with ⟨hku, _⟩ | ⟨hku, hDT, hST⟩
    · cases (core_run_of_latched (State.latched_eq_true.mpr hku) n).symm.trans h
      exact absurd ht hku
    · obtain ⟨ihDT, ihST⟩ := ih hku h
      rw [hDT, toNat_countDown] at ihDT
      rw [hST, toNat_countDown] at ihST
      omega

/-- Settles O15: subtraction on the naturals has its floor at zero. -/
theorem timersCountDownToZero : Obligations.TimersCountDownToZero := by
  intro n s t hk h ht
  obtain ⟨hDT, hST⟩ := core_run_timers hk h ht
  omega

end Sys2Proof.Machine
end

section
/-! Reset and load (70_reset_and_hazards.md R200 to R207): O24, O47, O48, O49. -/

namespace Sys2Proof.Machine

/-! ### What reset leaves -/

@[simp] theorem State.readV_resetBlock (s : State) (x : Nibble) : s.resetBlock.readV x = 0 := by
  simp [State.readV, State.resetBlock, State.resetOf, Vector.get_eq_getElem]

@[simp] theorem State.slot_resetOf (c : Config) (k : Nibble) : (State.resetOf c).slot k = 0 := by
  simp [State.slot, State.resetOf, Vector.get_eq_getElem]

@[simp] theorem State.pixel_resetBlock (s : State) (c : Column) (r : Row) : s.resetBlock.pixel c r = false :=
  Framebuffer.pixel_clear c r

/-- Reset lists no byte, so memory reads as the reset contents (log 6). -/
theorem State.byteAt_resetBlock (s : State) (a : Nat) : s.resetBlock.byteAt a = s.cfg.font.getD a 0 := rfl

/-- Above the font reset memory is zero (R202). -/
theorem State.byteAt_resetBlock_of_le {s : State} {a : Nat} (h : s.cfg.font.length ≤ a) :
    s.resetBlock.byteAt a = 0 := by
  rw [State.byteAt_resetBlock, List.getD_eq_default _ _ h]

/-- Settles O24: `pc` is 0x200 and every slot 0. -/
theorem resetStateHasBoundedAddresses : Obligations.ResetStateHasBoundedAddresses := by
  intro c
  refine ⟨show 0x200 ≤ 0x10FE by decide, fun k => ?_⟩
  rw [State.slot_resetOf]
  decide

/-- Settles O47: the scalar fields are those of `resetOf`, memory is the font and zero above it. -/
theorem resetRestoresTheBaseline : Obligations.ResetRestoresTheBaseline := fun s =>
  ⟨rfl, rfl, rfl, rfl, rfl, rfl, s.readV_resetBlock, State.slot_resetOf s.cfg, s.pixel_resetBlock, rfl,
    fun _ _ ha => State.memRead_ok ha,
    fun _ hfont ha => (State.memRead_ok ha).trans (congrArg Except.ok (State.byteAt_resetBlock_of_le hfont))⟩

/-! ### The tick after a bare reset -/

/-- A font within the bound of R8 ends below 0x200, where the first fetch reads. -/
theorem State.fetchWord_resetBlock {s : State} (h : s.cfg.wf = true) : s.resetBlock.fetchWord = .ok 0x0000 := by
  have hlen : s.cfg.font.length ≤ 0x200 := of_decide_eq_true h
  calc s.resetBlock.fetchWord
      = .ok (wordOfBytes (s.resetBlock.byteAt 0x200) (s.resetBlock.byteAt 0x201)) :=
        State.fetchWord_ok (s := s.resetBlock) (show 0x200 ≤ 0xFFE by decide)
    _ = .ok (wordOfBytes 0 0) := by
        rw [State.byteAt_resetBlock_of_le hlen, State.byteAt_resetBlock_of_le (Nat.le_succ_of_le hlen)]
    _ = .ok 0x0000 := rfl

/-- Settles O48: the word fetched after reset is 0x0000, which no handler takes; the frame is that of every raising
tick. -/
theorem tickAfterBareResetIsUnsupported : Obligations.TickAfterBareResetIsUnsupported := by
  intro s hwf
  have hdecode : decode 0x0000 = .error (.noSubHandler 0x0000) := by decide
  have hstep := step_of_decode_error (s := s.resetBlock) rfl (State.fetchWord_resetBlock hwf) hdecode
  have hfault : (s.resetBlock.raise ⟨.unsupportedInstruction, 0x0000⟩).consumeDraw.FAULT = ⟨1, 0x0000⟩ :=
    State.consumeDraw_FAULT _
  obtain ⟨hframe, -⟩ := failedTickCommitsNothing _ _ rfl hstep (by rw [hfault]; decide)
  exact ⟨_, hstep, hfault, State.consumeDraw_pc _, hframe⟩

/-! ### The copy of a ROM -/

/-- A copy that succeeds wrote its first byte inside memory and copied the others from the next address on. -/
theorem State.memWriteMany_cons_ok {s t : State} {a : Nat} {b : Byte} {bs : List Byte}
    (h : s.memWriteMany a (b :: bs) = .ok t) :
    a < 4096 ∧ ({ s with mem := s.mem.write s.cfg a b } : State).memWriteMany (a + 1) bs = .ok t := by
  rcases Nat.lt_or_ge a 4096 with ha | ha
  · simp only [State.memWriteMany, State.memWrite_ok b ha] at h
    exact ⟨ha, h⟩
  · simp [State.memWriteMany, State.memWrite_error b ha] at h

theorem changesOnly_refl (may : Part → Prop) (s : State) : ChangesOnly may s s := fun p _ => by cases p <;> exact rfl

theorem State.memWriteMany_changesOnly {s t : State} {a : Nat} {bs : List Byte} (hm : s.mem.wf s.cfg = true)
    (h : s.memWriteMany a bs = .ok t) :
    ChangesOnly (fun p => ∃ k, k < bs.length ∧ p = .byte (a + k)) s t := by
  induction bs generalizing s a with
  | nil =>
    cases h
    exact changesOnly_refl _ _
  | cons b bs ih =>
    obtain ⟨ha, htail⟩ := State.memWriteMany_cons_ok h
    refine ((changesOnly_byte hm a b).mono ?_).trans ((ih (Memory.wf_write hm ha) htail).mono ?_)
    · rintro _ rfl
      exact ⟨0, Nat.succ_pos _, rfl⟩
    · rintro _ ⟨k, hk, rfl⟩
      exact ⟨k + 1, Nat.succ_lt_succ hk, by rw [Nat.add_right_comm, Nat.add_assoc]⟩

/-- The bytes copied are read back: the writes after a byte's own go to higher addresses. -/
theorem State.memRead_memWriteMany {s t : State} {a k : Nat} {b : Byte} {bs : List Byte} (hm : s.mem.wf s.cfg = true)
    (h : s.memWriteMany a bs = .ok t) (hk : bs[k]? = some b) : t.memRead (a + k) = .ok b := by
  induction bs generalizing s a k with
  | nil => cases hk
  | cons b' bs ih =>
    obtain ⟨ha, htail⟩ := State.memWriteMany_cons_ok h
    cases k with
    | zero =>
      obtain rfl : b' = b := Option.some.inj hk
      have hlater : ¬ ∃ k, k < bs.length ∧ Part.byte a = .byte (a + 1 + k) := by
        rintro ⟨k, -, heq⟩
        have haddr : a = a + 1 + k := Part.byte.inj heq
        omega
      have hkept := State.memWriteMany_changesOnly (Memory.wf_write hm ha) htail (.byte a) hlater
      rw [Nat.add_zero, show t.memRead a = _ from hkept, State.memRead_ok ha, State.byteAt_write hm, if_pos rfl]
    | succ k =>
      rw [Nat.add_comm k 1, ← Nat.add_assoc]
      exact ih (Memory.wf_write hm ha) htail hk

theorem load_eq_copy {data : List Byte} (s : State) (h : data.length ≤ 3584) :
    ∃ t, s.resetBlock.memWriteMany progBase data = .ok t ∧ load data s = (t, .ok) := by
  obtain ⟨m, hcopy, -⟩ := State.memWriteMany_ok (s := s.resetBlock) (a := progBase) (bs := data)
    (show 512 + data.length ≤ 4096 by omega)
  have hlen : ¬ data.length > romMax := Nat.not_lt.mpr h
  exact ⟨_, hcopy, by simp [load, hlen, hcopy]⟩

/-- Settles O49: a ROM that fits is one copy on the reset state, whose memory lists nothing and so is canonical. -/
theorem loadCopiesTheRomOrChangesNothing : Obligations.LoadCopiesTheRomOrChangesNothing := by
  intro data s
  refine ⟨fun hfits => ?_, load_tooLong s⟩
  obtain ⟨t, hcopy, hload⟩ := load_eq_copy s hfits
  have hm : s.resetBlock.mem.wf s.resetBlock.cfg = true := Memory.wf_nil _
  exact ⟨t, hload, fun k b hk => State.memRead_memWriteMany hm hcopy hk, State.memWriteMany_changesOnly hm hcopy⟩

end Sys2Proof.Machine
end

section
/-! The rules a program must respect (70_reset_and_hazards.md R210): O14. -/

namespace Sys2Proof.Machine

/-- An instruction that has what it needs commits: it leaves `FAULT` as it was. -/
theorem exec_commits_of_canRun {i : Instr} {s : State} (h : i.canRun s) :
    ∃ t, exec i s = .next t ∧ t.FAULT = s.FAULT := by
  cases i with
  | ret x => exact ⟨_, exec_ret_ok x h, rfl⟩
  | call nnn => exact ⟨_, exec_call_ok nnn h, rfl⟩
  | drw x y n =>
    obtain ⟨hcfg, hI⟩ := h
    exact ⟨_, exec_drw_ok x y n hcfg hI, rfl⟩
  | subn x y => rcases exec_subn_cases x y (s := s) with ⟨_, _, he⟩ | ⟨_, _, he⟩ <;> exact ⟨_, he, rfl⟩
  | seImm | sneImm | seReg => exact ⟨_, rfl, State.skipIf_FAULT _ _⟩
  | _ => exact ⟨_, rfl, rfl⟩

/-- An instruction that lacks what it needs raises; only RET, CALL and DXYN need anything. -/
theorem exec_raises_of_not_canRun {i : Instr} {s : State} (h : ¬ i.canRun s) :
    ∃ e, exec i s = .next (s.raise e) := by
  cases i with
  | ret x => exact ⟨_, exec_ret_empty x (not_not.mp h)⟩
  | call nnn =>
    have hfull : s.SP.val = 16 := Nat.le_antisymm (Nat.le_of_lt_succ s.SP.isLt) (Nat.not_lt.mp h)
    exact ⟨_, exec_call_full nnn hfull⟩
  | drw x y n =>
    cases hcfg : s.cfg.drawReferenceFault with
    | true => exact ⟨_, exec_drw_reference x y n hcfg⟩
    | false => exact ⟨_, exec_drw_outside x y n hcfg (Nat.not_le.mp fun hI => h ⟨hcfg, hI⟩)⟩
  | _ => exact absurd trivial h

/-- Where a word can be fetched, R210 asks that it decodes to an instruction that can run. -/
theorem State.safeToRun_iff_of_fetch {s : State} {w : Word} (hf : s.fetchWord = .ok w) :
    s.safeToRun ↔ ∃ i, decode w = .ok i ∧ i.canRun s := by
  have hpc := State.pc_le_of_fetchWord_ok hf
  obtain rfl := Except.ok.inj ((State.fetchWord_ok hpc).symm.trans hf)
  exact and_iff_right hpc

theorem step_commits_of_safeToRun {s : State} (hk : s.FAULT.kind = 0) (h : s.safeToRun) :
    ∃ t, step s = .next t ∧ t.FAULT.kind = 0 := by
  obtain ⟨hpc, i, hd, hrun⟩ := h
  obtain ⟨t, he, hfault⟩ := exec_commits_of_canRun hrun
  have ht : t.FAULT.kind = 0 := by rw [hfault, hk]
  exact ⟨_, step_of_exec hk (State.fetchWord_ok hpc) hd he ht, by simpa using ht⟩

/-- A tick against R210 raises in the fetch, in the decoder or in the instruction. -/
theorem step_raises_of_not_safeToRun {s : State} (hk : s.FAULT.kind = 0) (h : ¬ s.safeToRun) :
    ∃ e, step s = .next (s.raise e).consumeDraw := by
  cases hf : s.fetchWord with
  | error e => exact ⟨e, step_of_fetch_error hk hf⟩
  | ok w =>
    cases hd : decode w with
    | error e => exact ⟨_, step_of_decode_error hk hf hd⟩
    | ok i =>
      have hrun : ¬ i.canRun s := fun hrun => h ((State.safeToRun_iff_of_fetch hf).mpr ⟨i, hd, hrun⟩)
      obtain ⟨e, he⟩ := exec_raises_of_not_canRun hrun
      exact ⟨e, step_of_exec_raise hk hf hd he⟩

/-- Settles O14: a safe tick commits, any other raises. -/
theorem tickCommitsExactlyWhenRulesAreRespected : Obligations.TickCommitsExactlyWhenRulesAreRespected := by
  intro s hk
  by_cases hsafe : s.safeToRun
  · obtain ⟨t, hstep, ht⟩ := step_commits_of_safeToRun hk hsafe
    exact ⟨t, hstep, iff_of_true ht hsafe⟩
  · obtain ⟨e, hstep⟩ := step_raises_of_not_safeToRun hk hsafe
    refine ⟨_, hstep, iff_of_false ?_ hsafe⟩
    rw [State.consumeDraw_FAULT]
    exact s.kind_raise_ne_zero e

end Sys2Proof.Machine
end

section
/-! Totality of the step (60_exceptions.md section 2, the spec's decisions D4 and D6; log 5): O10. -/

namespace Sys2Proof.Machine

/-- Settles O10: a latched error, a raise and a commit, the three cases of `step_cases`, each answer a state, which is
`step_answers`. -/
theorem everyStepAnswersANextState : Obligations.EveryStepAnswersANextState := by
  intro s
  exact step_answers s

end Sys2Proof.Machine
end
